-- ==== Sys2Proof/Word.lean ====
section
/-! DEFINITION. The block's data: bits, bytes, 32-bit words, device addresses (00_scope.md R5, R8). -/

namespace Sys2Proof

/-- A single bit, a line level: `false` is 0 (low), `true` is 1 (high) (R5). -/
abbrev Bit := Bool

/-- An 8-bit byte: a transferred value, a register address, a count (R5, R7). -/
abbrev Byte := BitVec 8

/-- A 32-bit word: a command, STATUS, RXDATA (R7, R37, R38). -/
abbrev Word := BitVec 32

/-- A 7-bit device address, 0 to 127 (R5, `DEV_WIDTH` of R7). -/
abbrev DevAddr := BitVec 7

/-- An offset in the 512-byte host window (20_memory.md R39, R40). -/
abbrev Offset := BitVec 9

end Sys2Proof
end

