-- ==== Sys2Proof/Syntax.lean ====
section
/-! DEFINITION. The 16 commands of OVW-I2C-CMD version 1 (30_encoding.md R62), one constructor per row of the opcode table. -/

namespace Sys2Proof

/-- A command with its operands. Every operand is an immediate field of the command word (10_state.md R15,
30_encoding.md R57); there are no register operands. -/
inductive Instr where
  /-- INIT: create the Bus Handle (R73). -/
  | init
  /-- SET_DIR: `out` is the field `L`: 1 = output, 0 = input (R75). -/
  | setDir (out : Bit)
  /-- WR_SCL: drive the clock line to the level `L` (R76). -/
  | wrScl (level : Bit)
  /-- WR_SDA: drive the data line to the level `L` (R77). -/
  | wrSda (level : Bit)
  /-- RD_SDA: sample the data line (R78). -/
  | rdSda
  /-- START: the start condition generator (R81). -/
  | start
  /-- STOP: the stop condition generator (R84). -/
  | stop
  /-- SEND_BYTE: byte shift-out of `BYTE` (R86). -/
  | sendByte (v : Byte)
  /-- RECV_BYTE: byte shift-in (R88). -/
  | recvByte
  /-- WAIT_ACK: the acknowledge detector (R91). -/
  | waitAck
  /-- SEND_ACK: the acknowledge sender (R94). -/
  | sendAck
  /-- SEND_NACK: the not-acknowledge sender (R95). -/
  | sendNack
  /-- WRITE_ONE: `VAL` is the value byte (R99). -/
  | writeOne (dev : DevAddr) (reg val : Byte)
  /-- WRITE_MULTI: `VAL` is the count `n`, 0 to 255 (R101). -/
  | writeMulti (dev : DevAddr) (reg n : Byte)
  /-- READ_ONE: no value operand (R103, R65). -/
  | readOne (dev : DevAddr) (reg : Byte)
  /-- READ_MULTI: `VAL` is the count `n`, 1 to 255 (R105, R66). -/
  | readMulti (dev : DevAddr) (reg n : Byte)
  deriving DecidableEq, Repr

end Sys2Proof
end

