-- ==== Sys2Proof/WellFormed.lean ====
section
/-! DEFINITION. Which commands have an encoding (30_encoding.md R57, R66, R72). The operand widths of R57 are in the types of
`Instr`: a device address above 127 cannot be written down (R72). The one check that is left is READ_MULTI's count. -/

namespace Sys2Proof

/-- READ_MULTI's count must be 1 to 255 (R66); every other operand takes every value of its field (R57). -/
def Instr.wellFormed : Instr → Bool
  | .readMulti _ _ n => n != 0
  | .init | .setDir _ | .wrScl _ | .wrSda _ | .rdSda | .start | .stop | .sendByte _ | .recvByte
  | .waitAck | .sendAck | .sendNack | .writeOne .. | .writeMulti .. | .readOne .. => true

/-- The command has an encoding. -/
abbrev Instr.WellFormed (i : Instr) : Prop := i.wellFormed = true

end Sys2Proof
end

