-- ==== Sys2Proof/Decode.lean ====
section
/-! DEFINITION. Decoding a command word (30_encoding.md R55 to R68), the encoder, and the opcode table as the spec gives it
(R62, R64). -/

namespace Sys2Proof

/-- Why a word spells no command (R67). -/
inductive IllegalWord where
  /-- The opcode is not in the map of R62 (R68: the 240 unassigned opcodes). -/
  | unassignedOpcode
  /-- A reserved bit of the opcode's format is 1 (R58 to R61); bit 23 of format T is how a device address above 127 is refused (R72). -/
  | reservedBit
  /-- READ_ONE with `VAL` other than 0 (R65). -/
  | readOneValue
  /-- READ_MULTI with a count of 0 (R66). -/
  | readMultiCount
  deriving DecidableEq, Repr

/-- What `decode` answers: a command with its operands, or ILLEGAL with the reason (R63). -/
inductive Decoded where
  | command (i : Instr)
  | illegal (why : IllegalWord)
  deriving DecidableEq, Repr

/-- The command read, if the word is legal. -/
def Decoded.instr? : Decoded → Option Instr
  | .command i => some i
  | .illegal _ => none

/-- `w[hi:lo]` of R8, for a field of `n` bits from bit `lo` up. -/
abbrev field (w : Word) (lo n : Nat) : BitVec n := w.extractLsb' lo n

/-- Format N: bits 23:0 are reserved (R58). -/
def decodeN (i : Instr) (w : Word) : Decoded :=
  if field w 0 24 = 0 then .command i else .illegal .reservedBit

/-- Format L: bits 23:1 are reserved, bit 0 is `L` (R59). -/
def decodeL (mk : Bit → Instr) (w : Word) : Decoded :=
  if field w 1 23 = 0 then .command (mk (w.getLsbD 0)) else .illegal .reservedBit

/-- Format B: bits 23:8 are reserved, bits 7:0 are `BYTE` (R60). -/
def decodeB (mk : Byte → Instr) (w : Word) : Decoded :=
  if field w 8 16 = 0 then .command (mk (field w 0 8)) else .illegal .reservedBit

/-- Format T: bit 23 is reserved; `DEV`, `REG`, `VAL` (R61). `mk` says which `VAL` the opcode takes (R65, R66). -/
def decodeT (mk : DevAddr → Byte → Byte → Decoded) (w : Word) : Decoded :=
  if field w 23 1 = 0 then mk (field w 16 7) (field w 8 8) (field w 0 8) else .illegal .reservedBit

/-- READ_ONE takes no value: `VAL` must be 0 (R65). -/
def readOneOf (dev : DevAddr) (reg val : Byte) : Decoded :=
  if val = 0 then .command (.readOne dev reg) else .illegal .readOneValue

/-- READ_MULTI's count must not be 0 (R66). -/
def readMultiOf (dev : DevAddr) (reg n : Byte) : Decoded :=
  if n = 0 then .illegal .readMultiCount else .command (.readMulti dev reg n)

/-- `decode(w)` of R63, total on every word: the opcode `w[31:24]` selects the command and its format (R56, R62). -/
def decode (w : Word) : Decoded :=
  match (field w 24 8).toNat with
  | 0x01 => decodeN .init w
  | 0x10 => decodeL .setDir w
  | 0x11 => decodeL .wrScl w
  | 0x12 => decodeL .wrSda w
  | 0x13 => decodeN .rdSda w
  | 0x20 => decodeN .start w
  | 0x21 => decodeN .stop w
  | 0x22 => decodeB .sendByte w
  | 0x23 => decodeN .recvByte w
  | 0x24 => decodeN .waitAck w
  | 0x25 => decodeN .sendAck w
  | 0x26 => decodeN .sendNack w
  | 0x30 => decodeT (fun d r v => .command (.writeOne d r v)) w
  | 0x31 => decodeT (fun d r v => .command (.writeMulti d r v)) w
  | 0x32 => decodeT readOneOf w
  | 0x33 => decodeT readMultiOf w
  | _ => .illegal .unassignedOpcode

/-- The opcode of each command (R62). -/
def Instr.opcode : Instr → BitVec 8
  | .init => 0x01
  | .setDir _ => 0x10
  | .wrScl _ => 0x11
  | .wrSda _ => 0x12
  | .rdSda => 0x13
  | .start => 0x20
  | .stop => 0x21
  | .sendByte _ => 0x22
  | .recvByte => 0x23
  | .waitAck => 0x24
  | .sendAck => 0x25
  | .sendNack => 0x26
  | .writeOne .. => 0x30
  | .writeMulti .. => 0x31
  | .readOne .. => 0x32
  | .readMulti .. => 0x33

/-- Format N (R58). -/
def encodeN (opc : BitVec 8) : Word := opc ++ 0#24

/-- Format L (R59). -/
def encodeL (opc : BitVec 8) (l : Bit) : Word := opc ++ 0#23 ++ BitVec.ofBool l

/-- Format B (R60). -/
def encodeB (opc : BitVec 8) (v : Byte) : Word := opc ++ 0#16 ++ v

/-- Format T (R61): the fields side by side. -/
def encodeT (opc : BitVec 8) (dev : DevAddr) (reg val : Byte) : Word := opc ++ 0#1 ++ dev ++ reg ++ val

/-- The word of a command (R58 to R62). -/
def encode (i : Instr) : Word :=
  match i with
  | .setDir l | .wrScl l | .wrSda l => encodeL i.opcode l
  | .sendByte v => encodeB i.opcode v
  | .writeOne d r v => encodeT i.opcode d r v
  | .writeMulti d r n => encodeT i.opcode d r n
  | .readOne d r => encodeT i.opcode d r 0
  | .readMulti d r n => encodeT i.opcode d r n
  | .init | .rdSda | .start | .stop | .recvByte | .waitAck | .sendAck | .sendNack => encodeN i.opcode

/-- A row of the match and mask table of R64: the word selects the command iff `w &&& mask = key`, and, where
`countNonzero`, its bits 7:0 are not 0. -/
structure OpRow where
  mnemonic     : String
  key          : Word
  mask         : Word
  countNonzero : Bool
  deriving DecidableEq, Repr

/-- The row selects the word (R64). -/
def OpRow.selects (r : OpRow) (w : Word) : Bool :=
  w &&& r.mask == r.key && (!r.countNonzero || field w 0 8 != 0)

/-- The table of R64, row by row. -/
def opTable : List OpRow :=
  [⟨"INIT", 0x01000000, 0xFFFFFFFF, false⟩,
   ⟨"SET_DIR", 0x10000000, 0xFFFFFFFE, false⟩,
   ⟨"WR_SCL", 0x11000000, 0xFFFFFFFE, false⟩,
   ⟨"WR_SDA", 0x12000000, 0xFFFFFFFE, false⟩,
   ⟨"RD_SDA", 0x13000000, 0xFFFFFFFF, false⟩,
   ⟨"START", 0x20000000, 0xFFFFFFFF, false⟩,
   ⟨"STOP", 0x21000000, 0xFFFFFFFF, false⟩,
   ⟨"SEND_BYTE", 0x22000000, 0xFFFFFF00, false⟩,
   ⟨"RECV_BYTE", 0x23000000, 0xFFFFFFFF, false⟩,
   ⟨"WAIT_ACK", 0x24000000, 0xFFFFFFFF, false⟩,
   ⟨"SEND_ACK", 0x25000000, 0xFFFFFFFF, false⟩,
   ⟨"SEND_NACK", 0x26000000, 0xFFFFFFFF, false⟩,
   ⟨"WRITE_ONE", 0x30000000, 0xFF800000, false⟩,
   ⟨"WRITE_MULTI", 0x31000000, 0xFF800000, false⟩,
   ⟨"READ_ONE", 0x32000000, 0xFF8000FF, false⟩,
   ⟨"READ_MULTI", 0x33000000, 0xFF800000, true⟩]

/-- The row of the table a command belongs to, by its mnemonic (R13, R62). -/
def Instr.mnemonic : Instr → String
  | .init => "INIT"
  | .setDir _ => "SET_DIR"
  | .wrScl _ => "WR_SCL"
  | .wrSda _ => "WR_SDA"
  | .rdSda => "RD_SDA"
  | .start => "START"
  | .stop => "STOP"
  | .sendByte _ => "SEND_BYTE"
  | .recvByte => "RECV_BYTE"
  | .waitAck => "WAIT_ACK"
  | .sendAck => "SEND_ACK"
  | .sendNack => "SEND_NACK"
  | .writeOne .. => "WRITE_ONE"
  | .writeMulti .. => "WRITE_MULTI"
  | .readOne .. => "READ_ONE"
  | .readMulti .. => "READ_MULTI"

/-- The word whose bits are `w`, of `nbits` bits, every bit above `nbits` 0. A command is one 32-bit word (R55). -/
def tableWord (nbits w : Nat) : Word := BitVec.ofNat 32 (w % 2 ^ nbits)

/-- What the decoder reads from an instruction of the opcode table (log 15: a command is never longer than 32 bits, R55). -/
def decodeTableWord (nbits w : Nat) : Option Instr :=
  if nbits ≤ 32 then (decode (tableWord nbits w)).instr? else none

end Sys2Proof
end

