-- ==== Sys2Proof/Config.lean ====
section
/-! DEFINITION. What a platform fixes (the parameters of 00_scope.md R7), the pin events (R9), and the values the spec leaves
free (R11, 10_state.md R32). -/

namespace Sys2Proof

/-- The two pins of a Bus Handle: `SCL_PIN` and `SDA_PIN` (R10). -/
inductive Line where
  | scl
  | sda
  deriving DecidableEq, Repr

/-- The pin modes of `CFG` (R9): output-open-drain, output-push-pull, input-pull-up. -/
inductive PinMode where
  | od
  | pp
  | ipu
  deriving DecidableEq, Repr

/-- A pin event (R9), as TRACE records it (10_state.md R33). -/
inductive PinEvent where
  /-- `Cfg(pin, mode)`. -/
  | cfg (pin : Line) (mode : PinMode)
  /-- `Drv(pin, lvl)`. -/
  | drv (pin : Line) (level : Bit)
  /-- `Smp(b)`, `b` the level the environment answered. -/
  | smp (answer : Bit)
  /-- `Wait(d)`, `d` a whole number of time units (log 20). -/
  | wait (d : Nat)
  deriving DecidableEq, Repr

/-- A pin identity: port and pin number (10_state.md R17). -/
structure PinId where
  port   : Nat
  number : Nat
  deriving DecidableEq, Repr

/-- `SCL_MODE`: the output mode INIT gives the clock pin (R7, 92_eei_decisions.md D10). -/
inductive SclMode where
  | pp
  | od
  deriving DecidableEq, Repr

/-- The mode that `Cfg(SCL, ·)` records. -/
def SclMode.pinMode : SclMode → PinMode
  | .pp => .pp
  | .od => .od

/-- The parameters of one instance (R7). They are fixed when the instance is created and never change (10_state.md R17); the
state carries them as a record that no step writes (log 3). The widths of R7 are in the types. -/
structure Params where
  /-- `SCL_PIN`. -/
  sclPin        : PinId
  /-- `SDA_PIN`. -/
  sdaPin        : PinId
  /-- `BASE`: where the host window stands in the host's address space (20_memory.md R39). -/
  base          : Nat
  /-- `T_D`, in abstract time units: a whole number of them (DESIGN CHOICE, log 20; R7 and 92_eei_decisions.md D9 say only that it
  is a positive number). -/
  tD            : Nat
  /-- `SCL_MODE`. -/
  sclMode       : SclMode
  /-- `ACK_POLL_BUDGET`: the most samples one Wait-Ack takes. -/
  ackPollBudget : Nat
  /-- `ABORT_STOP2`: a failed address phase issues a Stop of its own after the Stop inside Wait-Ack. -/
  abortStop2    : Bool
  deriving DecidableEq, Repr

/-- `T_D` is positive (92_eei_decisions.md D9) and the poll loop of R91 takes at least one sample (log 8). Whether the two pins
of one instance may be one pin the spec does not say: DESIGN CHOICE, they may (log 18). -/
def Params.wf (p : Params) : Bool := 0 < p.tD && 0 < p.ackPollBudget

/-- The spec's own values (R7). The pins and `BASE` have none: DESIGN CHOICE (log 3), and no statement rests on them. -/
def Config.params : Params where
  sclPin := ⟨0, 0⟩
  sdaPin := ⟨0, 1⟩
  base := 0
  tD := 1
  sclMode := .pp
  ackPollBudget := 5
  abortStop2 := true

/-- The `k`-th draw of a bit that no write has set (R11), in the instance bound to the two pins: a free value, subject to no
law. Each instance has a stream of its own, since instances share nothing (20_memory.md R51, 60_exceptions.md R122; log 1). -/
opaque Config.freeBit : (scl sda : PinId) → (k : Nat) → Bit

/-- The `k`-th draw of a byte that no write has set (R11), in the instance bound to the two pins: a free value (log 1). -/
opaque Config.freeByte : (scl sda : PinId) → (k : Nat) → Byte

/-- `env_sda(h)` of 10_state.md R32, `h` the trace so far, on the bus of the instance bound to the two pins: the environment's
answer to a sample where the state holds none for it (log 2). A free value. Each instance has a bus of its own. -/
opaque Config.envSda : (scl sda : PinId) → (h : List PinEvent) → Bit

end Sys2Proof
end

