-- ==== Sys2Proof/Machine/State.lean ====
section
/-! DEFINITION. The state of one instance of the block (10_state.md R18), its reset (70_reset_and_hazards.md R127), and the
reasons a step can stop. -/

namespace Sys2Proof.Machine

/-- A field that may still be `UNSPEC` (00_scope.md R11): no write has set it since reset, and every read of it is a fresh
draw. The spec gives UNSPEC as the field's reset value and forbids representing it as 0. -/
inductive Held (α : Type) where
  | unspec
  | val (v : α)
  deriving DecidableEq, Repr

/-- `SCL_CFG` (R19). -/
inductive SclCfg where
  | unconf
  | od
  | pp
  | ipu
  deriving DecidableEq, Repr

/-- `SDA_DIR` (R20): UNCONF, OUT, IN. -/
inductive SdaDir where
  | unconf
  | output
  | input
  deriving DecidableEq, Repr

/-- `BUS_STATE` (R24). -/
inductive BusState where
  | idle
  | started
  deriving DecidableEq, Repr

/-- `RESULT` (R25). -/
inductive Result where
  | ok
  | ackTimeout
  deriving DecidableEq, Repr

/-- The width of a host access (20_memory.md R45, R46). -/
inductive Width where
  | byte
  | half
  | word
  deriving DecidableEq, Repr

/-- One host access to the window, at its offset (R39, R45). A byte write carries its byte in bits 7:0. -/
inductive HostAccess where
  | read (width : Width) (off : Offset)
  | write (width : Width) (off : Offset) (v : Word)
  deriving DecidableEq, Repr

/-- The value a host read returned. -/
inductive HostReply where
  | word (v : Word)
  | byte (v : Byte)
  deriving DecidableEq, Repr

/-- The state of one instance. -/
structure State where
  /-- The instance's parameters, which no step writes (00_scope.md R7, 10_state.md R17; log 3). -/
  params    : Params
  /-- `INIT_DONE` (R31). -/
  initDone  : Bit
  /-- `SCL_CFG` (R19). -/
  sclCfg    : SclCfg
  /-- `SDA_DIR` (R20). -/
  sdaDir    : SdaDir
  /-- `SCL_OUT`, the clock pin's output latch (R21). -/
  sclOut    : Held Bit
  /-- `SDA_OUT`, the data pin's output latch (R22). -/
  sdaOut    : Held Bit
  /-- `BUS_STATE` (R24). -/
  busState  : BusState
  /-- `RESULT` (R25). -/
  result    : Result
  /-- `IGN_NACK` (R26). -/
  ignNack   : Bit
  /-- `PROTO_VIOL`, sticky (R27). -/
  protoViol : Bit
  /-- `SAMPLE` (R28). -/
  sample    : Held Bit
  /-- `RXDATA` (R29). -/
  rxData    : Held Byte
  /-- `F_ILLEGAL`, sticky (R30). -/
  fIllegal  : Bit
  /-- `F_RD_OUT`, sticky (R30). -/
  fRdOut    : Bit
  /-- `F_NOINIT`, sticky (R30). -/
  fNoInit   : Bit
  /-- `F_REINIT`, sticky (R30). -/
  fReinit   : Bit
  /-- The written bytes of BUF, by index (20_memory.md R41): indices strictly rising, an index that is not listed is UNSPEC (log 10). -/
  buf       : List Host.Cell
  /-- `TRACE` (R33), oldest event first. -/
  trace     : List PinEvent
  /-- The model's own: the bus environment's answers to the samples to come (R32; log 2). -/
  env       : List Bit
  /-- The model's own: how many fresh draws have happened (R11; log 1). -/
  draws     : Nat
  /-- The model's own: the host's accesses still to come, the next one first (60_exceptions.md R126; log 4). -/
  pending   : List HostAccess
  /-- The model's own: the values the host's reads have returned, oldest first (log 4). -/
  replies   : List HostReply
  deriving DecidableEq, Repr

/-- Why a step stops with a fault. There is no constructor: no rule of the spec stops the block (60_exceptions.md R112, R126:
no run can hang inside it). The spec's F_ bits are sticky state and a refused command is a next state (R112; log 16). -/
inductive Fault where
  deriving DecidableEq, Repr

/-- Why a step has no meaning. -/
inductive Refusal where
  /-- Raised by an arm of `exec` whose instruction has no meaning yet; no arm is left with it. Safe: the model stops. -/
  | notModelled (mnemonic : String)
  /-- Raised by the host port for an access that 20_memory.md R45 does not list (another width or offset, a read of CMD): the
  host has no such move (R46; log 6). Safe: the model stops and claims nothing of such a host. -/
  | noSuchHostAccess
  /-- Raised by a platform in which two instances name the same pin: the configuration is ill-formed and refused
  (10_state.md R17; log 12). Safe: the model stops. -/
  | pinAliasing
  /-- Raised by a platform asked to step a pin pair that no instance is bound to (60_exceptions.md R122; log 12). Safe: the model stops. -/
  | noSuchInstance
  deriving DecidableEq, Repr

/-- Power-on reset of an instance with the parameters `p` (R18, R127). -/
def State.powerOn (p : Params) : State where
  params := p
  initDone := false
  sclCfg := .unconf
  sdaDir := .unconf
  sclOut := .unspec
  sdaOut := .unspec
  busState := .idle
  result := .ok
  ignNack := false
  protoViol := false
  sample := .unspec
  rxData := .unspec
  fIllegal := false
  fRdOut := false
  fNoInit := false
  fReinit := false
  buf := []
  trace := []
  env := []
  draws := 0
  pending := []
  replies := []

/-- Power-on reset with the spec's parameter values. -/
def State.reset : State := State.powerOn Config.params

end Sys2Proof.Machine
end

