-- ==== Sys2Proof/Machine/Operands.lean ====
section
/-! DEFINITION. The operand forms: the derived address byte and the bit helpers of the byte shifter (00_scope.md R8, R14). -/

namespace Sys2Proof.Machine

/-- `addr_byte(dev, rw) = {dev[6:0], rw}` (R14); `rw` is 0 for a write, 1 for a read. -/
def addrByte (dev : DevAddr) (rw : Bit) : Byte := dev ++ BitVec.ofBool rw

/-- `SHIFT[7]` (R86). -/
def topBit (shift : Byte) : Bit := shift.msb

/-- `{SHIFT[6:0], 0}`: the logical left shift of R8 and R86. -/
def shiftLeft (shift : Byte) : Byte := shift <<< 1

/-- `{RCV[6:0], b}` (R88). -/
def shiftInBit (rcv : Byte) (b : Bit) : Byte := rcv <<< 1 ||| (BitVec.ofBool b).setWidth 8

/-- The level a `Held` latch may be read as: a known level, or, where it is UNSPEC, both readings (10_state.md R35). -/
def Held.readings : Held Bit → List Bit
  | .val b => [b]
  | .unspec => [false, true]

end Sys2Proof.Machine
end

