-- ==== Sys2Proof/Machine/Ops.lean ====
section
/-! DEFINITION. The named operations over the state: pin events (40_pin_signaling.md R74), the registers, the transfer buffer
(20_memory.md R41 to R43), draws of UNSPEC fields (00_scope.md R11), and refusing a command (60_exceptions.md R109, R112). -/

namespace Sys2Proof.Machine

/-! ### Pin events (R74): the state effect, and the record appended to TRACE -/

/-- `CFG(SCL, SCL_MODE)` (R74). Only INIT issues it. -/
def State.cfgScl (s : State) : State :=
  { s with
    sclCfg := match s.params.sclMode with
      | .pp => .pp
      | .od => .od
    trace := s.trace ++ [.cfg .scl s.params.sclMode.pinMode] }

/-- `CFG(SDA, OD)`: `SDA_DIR <- OUT` (R74). -/
def State.cfgSdaOut (s : State) : State :=
  { s with sdaDir := .output, trace := s.trace ++ [.cfg .sda .od] }

/-- `CFG(SDA, IPU)`: `SDA_DIR <- IN` (R74). -/
def State.cfgSdaIn (s : State) : State :=
  { s with sdaDir := .input, trace := s.trace ++ [.cfg .sda .ipu] }

/-- `DRV(SCL, l)`: `SCL_OUT <- l` (R74). -/
def State.drvScl (l : Bit) (s : State) : State :=
  { s with sclOut := .val l, trace := s.trace ++ [.drv .scl l] }

/-- `DRV(SDA, l)`: `SDA_OUT <- l`, in either direction mode (R74, R22). -/
def State.drvSda (l : Bit) (s : State) : State :=
  { s with sdaOut := .val l, trace := s.trace ++ [.drv .sda l] }

/-- `WAIT(T_D)`: no state effect (R74). -/
def State.wait (s : State) : State :=
  { s with trace := s.trace ++ [.wait s.params.tD] }

/-- `env_sda(h)` on the instance's own bus (10_state.md R32, 60_exceptions.md R122; log 2). -/
def State.busAnswer (s : State) (h : List PinEvent) : Bit := Config.envSda s.params.sclPin s.params.sdaPin h

/-- What the environment answers to a sample taken now (10_state.md R32): the next answer the state holds for it, and past
the last of those the free value `busAnswer` of the trace so far (log 2). -/
def State.envAnswer (s : State) : Bit :=
  match s.env with
  | b :: _ => b
  | [] => s.busAnswer s.trace

/-- The state after `SMP()`: no effect in the block, the answer recorded (R74, R33). -/
def State.afterSmp (s : State) : State :=
  { s with env := s.env.tail, trace := s.trace ++ [.smp s.envAnswer] }

/-- `b <- SMP()` (R74). -/
def State.smp (s : State) : Bit × State := (s.envAnswer, s.afterSmp)

/-! ### An edge and its delay: inside a primitive every `DRV` and `CFG` is followed by one `WAIT(T_D)` (41_primitives.md R82) -/

/-- `DRV(SCL, l); WAIT(T_D)`. -/
def State.sclEdge (l : Bit) (s : State) : State := (s.drvScl l).wait

/-- `DRV(SDA, l); WAIT(T_D)`. -/
def State.sdaEdge (l : Bit) (s : State) : State := (s.drvSda l).wait

/-- `CFG(SDA, OD); WAIT(T_D)`. -/
def State.sdaToOutput (s : State) : State := s.cfgSdaOut.wait

/-- `CFG(SDA, IPU); WAIT(T_D)`. -/
def State.sdaToInput (s : State) : State := s.cfgSdaIn.wait

/-! ### Registers -/

/-- `INIT_DONE <- 1` (R31). -/
def State.setInitDone (s : State) : State := { s with initDone := true }

/-- `BUS_STATE <- b` (R24). -/
def State.setBusState (b : BusState) (s : State) : State := { s with busState := b }

/-- `RESULT <- r` (R25). -/
def State.setResult (r : Result) (s : State) : State := { s with result := r }

/-- `IGN_NACK <- b` (R26). -/
def State.setIgnNack (b : Bit) (s : State) : State := { s with ignNack := b }

/-- `SAMPLE <- b` (R28). -/
def State.setSample (b : Bit) (s : State) : State := { s with sample := .val b }

/-- `RXDATA <- v` (R29). -/
def State.setRxData (v : Byte) (s : State) : State := { s with rxData := .val v }

/-! ### Draws of UNSPEC fields (R11) -/

/-- The instance's `k`-th draw of a bit (R11; log 1). -/
def State.bitDraw (s : State) (k : Nat) : Bit := Config.freeBit s.params.sclPin s.params.sdaPin k

/-- The instance's `k`-th draw of a byte (R11; log 1). -/
def State.byteDraw (s : State) (k : Nat) : Byte := Config.freeByte s.params.sclPin s.params.sdaPin k

/-- A read of a bit field: its value, or, where it is UNSPEC, a fresh draw (R11; log 1). -/
def State.readBit (h : Held Bit) (s : State) : Bit × State :=
  match h with
  | .val b => (b, s)
  | .unspec => (s.bitDraw s.draws, { s with draws := s.draws + 1 })

/-- A read of a byte field: its value, or, where it is UNSPEC, a fresh draw (R11; log 1). -/
def State.readByte (h : Held Byte) (s : State) : Byte × State :=
  match h with
  | .val v => (v, s)
  | .unspec => (s.byteDraw s.draws, { s with draws := s.draws + 1 })

/-! ### The transfer buffer (20_memory.md R41 to R43): the written bytes, indices strictly rising; a byte that is not listed
has no value yet (log 10) -/

/-- What BUF holds at an index: the one definition of what an unlisted index reads as, UNSPEC (R41). -/
def bufGet : List Host.Cell → Nat → Held Byte
  | [], _ => .unspec
  | (a, v) :: rest, i => if a = i then .val v else bufGet rest i

/-- Sets one index, keeping the indices strictly rising. -/
def bufSet (i : Nat) (v : Byte) : List Host.Cell → List Host.Cell
  | [] => [(i, v)]
  | (a, w) :: rest =>
    if i < a then (i, v) :: (a, w) :: rest
    else if i = a then (i, v) :: rest
    else (a, w) :: bufSet i v rest

/-- Every listed index is above `lo`'s bound and below 256, and they rise strictly. -/
def Memory.risingFrom : Nat → List Host.Cell → Bool
  | _, [] => true
  | lo, (a, _) :: rest => lo ≤ a && a < 256 && Memory.risingFrom (a + 1) rest

/-- The canonical form of BUF: indices strictly rising, all below `BUF_SIZE` = 256 (R41). An unlisted index reads as no byte
value at all, so no entry can equal what it reads as. -/
def Memory.wf (m : List Host.Cell) : Bool := Memory.risingFrom 0 m

/-- `MemRead(i, 1)` (R42): the byte, or a fresh draw where BUF[i] has not been written since reset. -/
def State.memRead (i : Byte) (s : State) : Byte × State := s.readByte (bufGet s.buf i.toNat)

/-- `MemWrite(i, 1, v)` (R43). -/
def State.memWrite (i v : Byte) (s : State) : State := { s with buf := bufSet i.toNat v s.buf }

/-! ### Refusing a command: the one exception mechanism of the block (60_exceptions.md R108 to R113). There is no return from
it: no trap exists (R114, R115). -/

/-- The four faults (R108). -/
inductive FaultCode where
  | illegal
  | rdOut
  | noInit
  | reinit
  deriving DecidableEq, Repr

/-- `raise Fault(code)`: sets the sticky bit and ends the command, with no event and no other write (R112). -/
def State.raiseFault (c : FaultCode) (s : State) : State :=
  match c with
  | .illegal => { s with fIllegal := true }
  | .rdOut => { s with fRdOut := true }
  | .noInit => { s with fNoInit := true }
  | .reinit => { s with fReinit := true }

/-- The acceptance checks of R109 in their order, for a command that has been decoded: the fault of the first that fails.
(F_ILLEGAL of a word is raised where the word is decoded; READ_MULTI with count 0, which no word decodes to, is the same
fault, R66, R110; log 7.) -/
def acceptance (c : Instr) (s : State) : Option FaultCode :=
  if c.wellFormed = false then some .illegal
  else if c = .init ∧ s.initDone = true then some .reinit
  else if c ≠ .init ∧ s.initDone = false then some .noInit
  else if c = .rdSda ∧ s.sdaDir = .output then some .rdOut
  else none

/-- `execute` of R109 after decoding: the checks, then the expansion. A refused command is a next state (R112). -/
def execute (c : Instr) (s : State) (expansion : State → State) : Host.Outcome State Fault Refusal :=
  match acceptance c s with
  | some f => .next (s.raiseFault f)
  | none => .next (expansion s)

end Sys2Proof.Machine
end

