-- ==== Sys2Proof/Machine/Flags.lean ====
section
/-! DEFINITION. The status flags: PROTO_VIOL's check (10_state.md R27, 41_primitives.md R83) and the STATUS and RXDATA words
(R37, R38). -/

namespace Sys2Proof.Machine

/-- The seven primitives (41_primitives.md). -/
inductive Prim where
  | start
  | stop
  | sendByte
  | recvByte
  | waitAck
  | sendAck
  | sendNack
  deriving DecidableEq, Repr

/-- The document gives the primitive only the transition `Started → Started` (R27). -/
def Prim.needsStarted : Prim → Bool
  | .sendByte | .recvByte | .waitAck | .sendAck | .sendNack => true
  | .start | .stop => false

/-- The primitive drives SDA without configuring it, which has no effect on the line in input mode (R27). -/
def Prim.needsOutput : Prim → Bool
  | .start | .stop | .sendByte | .sendAck | .sendNack => true
  | .recvByte | .waitAck => false

/-- The primitive starts out of protocol (R27). -/
def violates (p : Prim) (s : State) : Bool :=
  (p.needsStarted && s.busState == .idle) || (p.needsOutput && s.sdaDir == .input)

/-- `check_proto(P)` (R83): may set the sticky PROTO_VIOL, stops nothing. -/
def State.checkProto (p : Prim) (s : State) : State :=
  { s with protoViol := s.protoViol || violates p s }

/-- The STATUS word (R37) with `scl`, `sda` and `smp` as the values read for bits 5, 6 and 7. -/
def statusWord (s : State) (scl sda smp : Bit) : Word :=
  0#12 ++ BitVec.ofBool s.fReinit ++ BitVec.ofBool s.fNoInit ++ BitVec.ofBool s.fRdOut ++ BitVec.ofBool s.fIllegal
    ++ 0#7 ++ BitVec.ofBool s.protoViol ++ BitVec.ofBool smp ++ BitVec.ofBool sda ++ BitVec.ofBool scl
    ++ BitVec.ofBool (s.sdaDir == .output) ++ BitVec.ofBool s.initDone ++ BitVec.ofBool (s.busState == .started)
    ++ BitVec.ofBool s.ignNack ++ BitVec.ofBool (s.result == .ackTimeout)

/-- A read of STATUS: a fresh draw in each bit whose field is UNSPEC (R37), drawn in the order of the bits (log 1). -/
def State.readStatus (s : State) : Word × State :=
  let (scl, s₁) := s.readBit s.sclOut
  let (sda, s₂) := s₁.readBit s.sdaOut
  let (smp, s₃) := s₂.readBit s.sample
  (statusWord s scl sda smp, s₃)

/-- A read of RXDATA: bits 7:0 the field, bits 31:8 zero (R38). -/
def State.readRxData (s : State) : Word × State :=
  let (v, s₁) := s.readByte s.rxData
  (v.setWidth 32, s₁)

end Sys2Proof.Machine
end

