-- ==== Sys2Proof/Machine/Pins.lean ====
section
/-! DEFINITION. Initialisation and Pin Signaling: INIT, SET_DIR, WR_SCL, WR_SDA, RD_SDA (40_pin_signaling.md R73 to R79). -/

namespace Sys2Proof.Machine

/-- INIT (R73): two `Cfg` events, no `Drv`, no `Wait`. -/
def execInit (s : State) : Host.Outcome State Fault Refusal :=
  execute .init s fun s => (s.cfgScl.cfgSdaOut.setInitDone).setResult .ok

/-- SET_DIR (R75): the event is emitted even when the direction is already the one asked for. -/
def execSetDir (out : Bit) (s : State) : Host.Outcome State Fault Refusal :=
  execute (.setDir out) s fun s => (if out then s.cfgSdaOut else s.cfgSdaIn).setResult .ok

/-- WR_SCL (R76). -/
def execWrScl (level : Bit) (s : State) : Host.Outcome State Fault Refusal :=
  execute (.wrScl level) s fun s => (s.drvScl level).setResult .ok

/-- WR_SDA (R77): in input mode only the latch changes. -/
def execWrSda (level : Bit) (s : State) : Host.Outcome State Fault Refusal :=
  execute (.wrSda level) s fun s => (s.drvSda level).setResult .ok

/-- RD_SDA (R78); in output mode it is refused with F_RD_OUT. -/
def execRdSda (s : State) : Host.Outcome State Fault Refusal :=
  execute .rdSda s fun s =>
    let (b, s) := s.smp
    (s.setSample b).setResult .ok

end Sys2Proof.Machine
end

