-- ==== Sys2Proof/Machine/Primitives.lean ====
section
/-! DEFINITION. The Bit/Byte Primitives (41_primitives.md R81 to R96). `call…` is a primitive's inline expansion, as WAIT_ACK
and the transactions call it; the command adds `RESULT` and the acceptance checks (R85). -/

namespace Sys2Proof.Machine

/-- The start condition generator (R81). -/
def callStart (s : State) : State :=
  ((((s.checkProto .start).sdaEdge true).sclEdge true).sdaEdge false).sclEdge false |>.setBusState .started

/-- The stop condition generator (R84). -/
def callStop (s : State) : State :=
  ((((s.checkProto .stop).sclEdge false).sdaEdge false).sclEdge true).sdaEdge true |>.setBusState .idle

/-- The bit loop of SEND_BYTE (R86); the arguments are `BITCNT` and `SHIFT` (10_state.md R34; log 9). -/
def shiftOut : Nat → Byte → State → State
  | 0, _, s => s
  | bitcnt + 1, shift, s =>
    shiftOut bitcnt (shiftLeft shift) (((s.sclEdge false).sdaEdge (topBit shift)).sclEdge true)

/-- Byte shift-out (R86). -/
def callSendByte (v : Byte) (s : State) : State :=
  (shiftOut 8 v (s.checkProto .sendByte)).sclEdge false

/-- The bit loop of RECV_BYTE (R88); the arguments are `BITCNT` and `RCV` (R34). -/
def shiftIn : Nat → Byte → State → Byte × State
  | 0, rcv, s => (rcv, s)
  | bitcnt + 1, rcv, s =>
    let (b, s) := ((s.sclEdge false).sclEdge true).smp
    shiftIn bitcnt (shiftInBit rcv b) s

/-- Byte shift-in (R88): the byte, which RXDATA also holds. -/
def callRecvByte (s : State) : Byte × State :=
  let (rcv, s) := shiftIn 8 0 (s.checkProto .recvByte).sdaToInput
  (rcv, ((s.sclEdge false).sdaToOutput).setRxData rcv)

/-- The outcome of `wait_ack()` (R91). -/
inductive Ack where
  | ack
  | timeout
  deriving DecidableEq, Repr

/-- The poll loop of R91 and its two exits; the argument is the number of samples left, `ACK_POLL_BUDGET - POLL` (R34). -/
def pollAck : Nat → State → Ack × State
  | 0, s => (.timeout, callStop s.sdaToOutput)
  | left + 1, s =>
    match s.smp with
    | (false, s) => (.ack, s.sdaToOutput.sclEdge false)
    | (true, s) => pollAck left s.wait

/-- `wait_ack()` (R91). -/
def waitAck (s : State) : Ack × State :=
  pollAck s.params.ackPollBudget ((s.checkProto .waitAck).sdaToInput.sclEdge true)

/-- The acknowledge sender (R94). -/
def callSendAck (s : State) : State :=
  (((s.checkProto .sendAck).sdaEdge false).sclEdge true).sclEdge false

/-- The not-acknowledge sender (R95). -/
def callSendNack (s : State) : State :=
  (((s.checkProto .sendNack).sdaEdge true).sclEdge true).sclEdge false

/-- START (R81). -/
def execStart (s : State) : Host.Outcome State Fault Refusal :=
  execute .start s fun s => (callStart s).setResult .ok

/-- STOP (R84). -/
def execStop (s : State) : Host.Outcome State Fault Refusal :=
  execute .stop s fun s => (callStop s).setResult .ok

/-- SEND_BYTE (R86). -/
def execSendByte (v : Byte) (s : State) : Host.Outcome State Fault Refusal :=
  execute (.sendByte v) s fun s => (callSendByte v s).setResult .ok

/-- RECV_BYTE (R88). -/
def execRecvByte (s : State) : Host.Outcome State Fault Refusal :=
  execute .recvByte s fun s => (callRecvByte s).2.setResult .ok

/-- WAIT_ACK (R91): `RESULT` says how it ended. -/
def execWaitAck (s : State) : Host.Outcome State Fault Refusal :=
  execute .waitAck s fun s =>
    match waitAck s with
    | (.ack, s) => s.setResult .ok
    | (.timeout, s) => s.setResult .ackTimeout

/-- SEND_ACK (R94). -/
def execSendAck (s : State) : Host.Outcome State Fault Refusal :=
  execute .sendAck s fun s => (callSendAck s).setResult .ok

/-- SEND_NACK (R95). -/
def execSendNack (s : State) : Host.Outcome State Fault Refusal :=
  execute .sendNack s fun s => (callSendNack s).setResult .ok

end Sys2Proof.Machine
end

