-- ==== Sys2Proof/Machine/Transactions.lean ====
section
/-! DEFINITION. Transaction Framing (42_transactions.md R97 to R107): WRITE_ONE, WRITE_MULTI, READ_ONE, READ_MULTI. -/

namespace Sys2Proof.Machine

/-- `abort()` (R97): the transaction's own Stop where `ABORT_STOP2` is true, then `RESULT <- ACK_TIMEOUT`. -/
def abortTransaction (s : State) : State :=
  (if s.params.abortStop2 then callStop s else s).setResult .ackTimeout

/-- `ign_ack()` (R98): a timeout is only recorded in IGN_NACK. -/
def ignAck (s : State) : State :=
  match waitAck s with
  | (.ack, s) => s
  | (.timeout, s) => s.setIgnNack true

/-- `call SEND_BYTE(v); ign_ack()`. -/
def sendIgnored (v : Byte) (s : State) : State := ignAck (callSendByte v s)

/-- The opening of WRITE_ONE, WRITE_MULTI and READ_MULTI: IGN_NACK cleared, START, the address byte for writing, and the
checked Wait-Ack that aborts the transaction on a timeout (R97); `rest` is what follows an acknowledge. -/
def checkedAddress (dev : DevAddr) (rest : State → State) (s : State) : State :=
  match waitAck (callSendByte (addrByte dev false) (callStart (s.setIgnNack false))) with
  | (.ack, s) => rest s
  | (.timeout, s) => abortTransaction s

/-- The end of a transaction that was not aborted: STOP, `RESULT <- OK`. -/
def closeTransaction (s : State) : State := (callStop s).setResult .ok

/-- The data loop of WRITE_MULTI (R101); the arguments are the bytes left and `IDX` (R34). BUF[IDX] is read immediately
before it is sent (20_memory.md R48). -/
def sendBuf : Nat → Byte → State → State
  | 0, _, s => s
  | left + 1, idx, s =>
    let (v, s) := s.memRead idx
    sendBuf left (idx + 1) (sendIgnored v s)

/-- The data loop of READ_MULTI (R105): SEND_ACK after every byte but the last, SEND_NACK after the last. -/
def recvBuf : Nat → Byte → State → State
  | 0, _, s => s
  | left + 1, idx, s =>
    let (v, s) := callRecvByte s
    let s := s.memWrite idx v
    recvBuf left (idx + 1) (if left = 0 then callSendNack s else callSendAck s)

/-- WRITE_ONE (R99). -/
def execWriteOne (dev : DevAddr) (reg val : Byte) (s : State) : Host.Outcome State Fault Refusal :=
  execute (.writeOne dev reg val) s <| checkedAddress dev fun s =>
    closeTransaction (sendIgnored val (sendIgnored reg s))

/-- WRITE_MULTI (R101). -/
def execWriteMulti (dev : DevAddr) (reg n : Byte) (s : State) : Host.Outcome State Fault Refusal :=
  execute (.writeMulti dev reg n) s <| checkedAddress dev fun s =>
    closeTransaction (sendBuf n.toNat 0 (sendIgnored reg s))

/-- READ_ONE (R103): the sequence never branches; every Wait-Ack is ignored. -/
def execReadOne (dev : DevAddr) (reg : Byte) (s : State) : Host.Outcome State Fault Refusal :=
  execute (.readOne dev reg) s fun s =>
    let s := callStart (s.setIgnNack false)
    let s := sendIgnored reg (sendIgnored (addrByte dev false) s)
    let s := sendIgnored (addrByte dev true) (callStart s)
    closeTransaction (callSendNack (callRecvByte s).2)

/-- READ_MULTI (R105). -/
def execReadMulti (dev : DevAddr) (reg n : Byte) (s : State) : Host.Outcome State Fault Refusal :=
  execute (.readMulti dev reg n) s <| checkedAddress dev fun s =>
    let s := sendIgnored (addrByte dev true) (callStart (sendIgnored reg s))
    closeTransaction (recvBuf n.toNat 0 s)

end Sys2Proof.Machine
end

