-- ==== Sys2Proof/Machine/Dispatch.lean ====
section
/-! DEFINITION. One arm per command, each one call of its meaning. -/

namespace Sys2Proof.Machine

def exec (i : Instr) (s : State) : Host.Outcome State Fault Refusal :=
  match i with
  -- 40_pin_signaling.md
  | .init => Sys2Proof.Machine.execInit s
  | .setDir out => Sys2Proof.Machine.execSetDir out s
  | .wrScl level => Sys2Proof.Machine.execWrScl level s
  | .wrSda level => Sys2Proof.Machine.execWrSda level s
  | .rdSda => Sys2Proof.Machine.execRdSda s
  -- 41_primitives.md
  | .start => Sys2Proof.Machine.execStart s
  | .stop => Sys2Proof.Machine.execStop s
  | .sendByte v => Sys2Proof.Machine.execSendByte v s
  | .recvByte => Sys2Proof.Machine.execRecvByte s
  | .waitAck => Sys2Proof.Machine.execWaitAck s
  | .sendAck => Sys2Proof.Machine.execSendAck s
  | .sendNack => Sys2Proof.Machine.execSendNack s
  -- 42_transactions.md
  | .writeOne dev reg val => Sys2Proof.Machine.execWriteOne dev reg val s
  | .writeMulti dev reg n => Sys2Proof.Machine.execWriteMulti dev reg n s
  | .readOne dev reg => Sys2Proof.Machine.execReadOne dev reg s
  | .readMulti dev reg n => Sys2Proof.Machine.execReadMulti dev reg n s

end Sys2Proof.Machine
end

