-- ==== Sys2Proof/Machine/HostPort.lean ====
section
/-! DEFINITION. The host's side of the block: the address window (20_memory.md R39 to R46) and what each host access does
(60_exceptions.md R109, R125). -/

namespace Sys2Proof.Machine

/-- Offset of CMD (R39). -/
def cmdOffset : Offset := 0x000

/-- Offset of STATUS (R39). -/
def statusOffset : Offset := 0x004

/-- Offset of RXDATA (R39). -/
def rxDataOffset : Offset := 0x008

/-- Offset of BUF[i] (R39). -/
def bufOffset (i : Byte) : Offset := 0x100 + i.setWidth 9

/-- The accesses the host may make (R45). -/
inductive HostMove where
  /-- A 32-bit write to CMD: issue the command. -/
  | command (w : Word)
  /-- A 32-bit read of STATUS. -/
  | readStatus
  /-- A 32-bit read of RXDATA. -/
  | readRxData
  /-- An 8-bit read of BUF[i]. -/
  | readBuf (i : Byte)
  /-- An 8-bit write of BUF[i]. -/
  | writeBuf (i v : Byte)
  /-- A 32-bit write to STATUS or RXDATA, accepted and ignored. -/
  | ignoredWrite
  deriving DecidableEq, Repr

/-- Which move an access is; none for every access R45 does not list (R46). -/
def hostMove : HostAccess → Option HostMove
  | .write .word off v =>
    if off = cmdOffset then some (.command v)
    else if off = statusOffset ∨ off = rxDataOffset then some .ignoredWrite
    else none
  | .read .word off =>
    if off = statusOffset then some .readStatus
    else if off = rxDataOffset then some .readRxData
    else none
  | .write .byte off v => if off.msb then some (.writeBuf (off.setWidth 8) (v.setWidth 8)) else none
  | .read .byte off => if off.msb then some (.readBuf (off.setWidth 8)) else none
  | .write .half _ _ => none
  | .read .half _ => none

/-- The value of a host read, beside the values of the reads before it. -/
def State.reply (r : HostReply) (s : State) : State := { s with replies := s.replies ++ [r] }

/-- A word written to CMD (R109): decoded, and refused with F_ILLEGAL or executed. -/
def issue (w : Word) (s : State) : Host.Outcome State Fault Refusal :=
  match decode w with
  | .command i => exec i s
  | .illegal _ => .next (s.raiseFault .illegal)

/-- What a host move does (R45, R125). Reads have no side effect in the block (R45). -/
def hostStep (m : HostMove) (s : State) : Host.Outcome State Fault Refusal :=
  match m with
  | .command w => issue w s
  | .readStatus => let (v, s) := s.readStatus; .next (s.reply (.word v))
  | .readRxData => let (v, s) := s.readRxData; .next (s.reply (.word v))
  | .readBuf i => let (v, s) := s.memRead i; .next (s.reply (.byte v))
  | .writeBuf i v => .next (s.memWrite i v)
  | .ignoredWrite => .next s

/-- The host's next access is taken up. -/
def State.takePending (s : State) : State := { s with pending := s.pending.tail }

/-- The next host access, whole: a command runs to its end before the next access (R47). With none pending the block waits
and keeps all its state (R16, R124; log 4). -/
def serveHost (s : State) : Host.Outcome State Fault Refusal :=
  match s.pending with
  | [] => .next s
  | a :: _ =>
    match hostMove a with
    | some m => hostStep m s.takePending
    | none => .refused .noSuchHostAccess

/-- The host writes the word `w` to CMD next. -/
def State.thenCommand (w : Word) (s : State) : State := { s with pending := .write .word cmdOffset w :: s.pending }

end Sys2Proof.Machine
end

