-- ==== Sys2Proof/Machine/Step.lean ====
section
/-! DEFINITION. One step: the host's next access, served whole (00_scope.md R12, 20_memory.md R47; log 5). -/

namespace Sys2Proof.Machine

/-- One step of the instance. -/
def step (s : State) : Host.Outcome State Fault Refusal := serveHost s

/-- `s` with the host's next access a write to CMD of the word `w` (the block fetches nothing; the sequence of words the host
writes is its program, 10_state.md R16; log 4). -/
def State.withFetchWord (s : State) (nbits w : Nat) : State := s.thenCommand (tableWord nbits w)

end Sys2Proof.Machine
end

