-- ==== Sys2Proof/Machine/Assembler.lean ====
section
/-! DEFINITION. The assembly syntax and the pseudo-instructions (30_encoding.md R69, R70), on a line given as its characters. -/

namespace Sys2Proof.Machine

/-- What the assembler makes of a line. -/
inductive AsmLine where
  /-- Nothing but spaces and a comment (log 17). -/
  | blank
  /-- A command. -/
  | command (i : Instr)
  /-- Refused: no such mnemonic, a missing or extra operand, or an operand out of range (R69). -/
  | refused
  deriving DecidableEq, Repr

/-- The pseudo-instructions of R70. -/
inductive Pseudo where
  | sdaIn
  | sdaOutput
  | sclLo
  | sclHi
  | sdaLo
  | sdaHi
  | sendAddr (dev : DevAddr) (rw : Bit)
  deriving DecidableEq, Repr

/-- Each pseudo-instruction is exactly one command (R70). -/
def Pseudo.expand : Pseudo → Instr
  | .sdaIn => .setDir false
  | .sdaOutput => .setDir true
  | .sclLo => .wrScl false
  | .sclHi => .wrScl true
  | .sdaLo => .wrSda false
  | .sdaHi => .wrSda true
  | .sendAddr dev rw => .sendByte (addrByte dev rw)

/-- The value of a digit in the base, if the character is one. -/
def digitValue (base : Nat) (c : Char) : Option Nat :=
  let n := c.toNat
  let v := if 48 ≤ n ∧ n ≤ 57 then n - 48
    else if 65 ≤ n ∧ n ≤ 70 then n - 55
    else if 97 ≤ n ∧ n ≤ 102 then n - 87
    else base
  if v < base then some v else none

/-- Digits in the base, most significant first, after the value `acc`. -/
def digitsFrom (base : Nat) : Nat → List Char → Option Nat
  | acc, [] => some acc
  | acc, c :: cs =>
    match digitValue base c with
    | some v => digitsFrom base (acc * base + v) cs
    | none => none

/-- A number: `0x` hexadecimal, `0b` binary, else decimal (R69). -/
def number : List Char → Option Nat
  | [] => none
  | '0' :: 'x' :: c :: cs => digitsFrom 16 0 (c :: cs)
  | '0' :: 'b' :: c :: cs => digitsFrom 2 0 (c :: cs)
  | c :: cs => digitsFrom 10 0 (c :: cs)

/-- A number of `n` bits; the assembler refuses one out of range (R69). -/
def numberOf (n : Nat) (cs : List Char) : Option (BitVec n) :=
  match number cs with
  | some v => if v < 2 ^ n then some (BitVec.ofNat n v) else none
  | none => none

/-- A level: 0 or 1 (R69). -/
def levelOf (cs : List Char) : Option Bit :=
  match number cs with
  | some 0 => some false
  | some 1 => some true
  | _ => none

/-- A direction: `in` or `out`, also 0 or 1 (R69). -/
def directionOf : List Char → Option Bit
  | ['i', 'n'] => some false
  | ['o', 'u', 't'] => some true
  | cs => levelOf cs

/-- A space or a tab. -/
def isBlank (c : Char) : Bool := c = ' ' || c = '\t'

/-- The line without its comment (R69). -/
def withoutComment (line : List Char) : List Char := line.takeWhile fun c => c != ';'

/-- Without blanks at either end. -/
def trimmed (cs : List Char) : List Char :=
  ((cs.dropWhile isBlank).reverse.dropWhile isBlank).reverse

/-- The parts between commas. -/
def commaParts : List Char → List (List Char)
  | [] => [[]]
  | c :: cs =>
    match commaParts cs with
    | [] => [[c]]
    | p :: ps => if c = ',' then [] :: p :: ps else (c :: p) :: ps

/-- The operands: none where the rest of the line is blank, else the parts between commas (R69). -/
def operandsOf (rest : List Char) : List (List Char) :=
  if trimmed rest = [] then [] else (commaParts rest).map trimmed

/-- No operand (format N). -/
def asmN (i : Instr) : List (List Char) → Option Instr
  | [] => some i
  | _ => none

/-- One operand read by `rd` (formats L and B). -/
def asmOne {α : Type} (rd : List Char → Option α) (mk : α → Instr) : List (List Char) → Option Instr
  | [a] => (rd a).map mk
  | _ => none

/-- `dev, reg, val` (format T). -/
def asmThree (mk : DevAddr → Byte → Byte → Instr) : List (List Char) → Option Instr
  | [a, b, c] =>
    match numberOf 7 a, numberOf 8 b, numberOf 8 c with
    | some d, some r, some v => some (mk d r v)
    | _, _, _ => none
  | _ => none

/-- `READ_ONE dev, reg`. -/
def asmReadOne : List (List Char) → Option Instr
  | [a, b] =>
    match numberOf 7 a, numberOf 8 b with
    | some d, some r => some (.readOne d r)
    | _, _ => none
  | _ => none

/-- `SEND_ADDR dev, rw` (R70). -/
def asmSendAddr : List (List Char) → Option Instr
  | [a, b] =>
    match numberOf 7 a, levelOf b with
    | some d, some rw => some (Pseudo.sendAddr d rw).expand
    | _, _ => none
  | _ => none

/-- The command a mnemonic and its operands spell (R62, R69, R70). -/
def asmCommand (m : List Char) (ops : List (List Char)) : Option Instr :=
  if m = "INIT".toList then asmN .init ops
  else if m = "SET_DIR".toList then asmOne directionOf .setDir ops
  else if m = "WR_SCL".toList then asmOne levelOf .wrScl ops
  else if m = "WR_SDA".toList then asmOne levelOf .wrSda ops
  else if m = "RD_SDA".toList then asmN .rdSda ops
  else if m = "START".toList then asmN .start ops
  else if m = "STOP".toList then asmN .stop ops
  else if m = "SEND_BYTE".toList then asmOne (numberOf 8) .sendByte ops
  else if m = "RECV_BYTE".toList then asmN .recvByte ops
  else if m = "WAIT_ACK".toList then asmN .waitAck ops
  else if m = "SEND_ACK".toList then asmN .sendAck ops
  else if m = "SEND_NACK".toList then asmN .sendNack ops
  else if m = "WRITE_ONE".toList then asmThree .writeOne ops
  else if m = "WRITE_MULTI".toList then asmThree .writeMulti ops
  else if m = "READ_ONE".toList then asmReadOne ops
  else if m = "READ_MULTI".toList then asmThree .readMulti ops
  else if m = "SDA_IN".toList then asmN Pseudo.sdaIn.expand ops
  else if m = "SDA_OUTPUT".toList then asmN Pseudo.sdaOutput.expand ops
  else if m = "SCL_LO".toList then asmN Pseudo.sclLo.expand ops
  else if m = "SCL_HI".toList then asmN Pseudo.sclHi.expand ops
  else if m = "SDA_LO".toList then asmN Pseudo.sdaLo.expand ops
  else if m = "SDA_HI".toList then asmN Pseudo.sdaHi.expand ops
  else if m = "SEND_ADDR".toList then asmSendAddr ops
  else none

/-- One line of a program (R69); READ_MULTI with a count of 0 is refused. -/
def assembleLine (line : List Char) : AsmLine :=
  let cs := trimmed (withoutComment line)
  if cs = [] then .blank
  else
    match asmCommand (cs.takeWhile fun c => !isBlank c) (operandsOf (cs.dropWhile fun c => !isBlank c)) with
    | some i => if i.wellFormed then .command i else .refused
    | none => .refused

/-- The word of a line (R69). -/
def assembleWord (line : List Char) : Option Word :=
  match assembleLine line with
  | .command i => some (encode i)
  | .blank | .refused => none

end Sys2Proof.Machine
end

