-- ==== Sys2Proof/Machine/Observe.lean ====
section
/-! DEFINITION. What is derived from the state and the trace: line levels (10_state.md R21, R23), and start and stop edges
(R35). It only observes; no operation of the block reads it. -/

namespace Sys2Proof.Machine

/-- The pin fields of the state (R19 to R22), as the pin events of R74 change them. -/
structure PinView where
  sclCfg : SclCfg
  sdaDir : SdaDir
  sclOut : Held Bit
  sdaOut : Held Bit
  deriving DecidableEq, Repr

/-- The pin fields after power-on reset (R18). -/
def PinView.reset : PinView := ⟨.unconf, .unconf, .unspec, .unspec⟩

/-- The pin fields of a state. -/
def State.pins (s : State) : PinView := ⟨s.sclCfg, s.sdaDir, s.sclOut, s.sdaOut⟩

/-- The effect of one recorded event on the pin fields (R74). The engine issues no `Cfg(SCL, IPU)` and no `Cfg(SDA, PP)`
(R19, R20); they are given the mode they name, and the direction left as it is. -/
def PinView.apply (p : PinView) : PinEvent → PinView
  | .cfg .scl .od => { p with sclCfg := .od }
  | .cfg .scl .pp => { p with sclCfg := .pp }
  | .cfg .scl .ipu => { p with sclCfg := .ipu }
  | .cfg .sda .od => { p with sdaDir := .output }
  | .cfg .sda .ipu => { p with sdaDir := .input }
  | .cfg .sda .pp => p
  | .drv .scl l => { p with sclOut := .val l }
  | .drv .sda l => { p with sdaOut := .val l }
  | .smp _ => p
  | .wait _ => p

/-- The pin fields after a run of events, oldest first. -/
def PinView.replay (p : PinView) (es : List PinEvent) : PinView := es.foldl PinView.apply p

/-- Every sample of the run is taken with SDA in input mode (R23). -/
def PinView.samplesInInput : PinView → List PinEvent → Bool
  | _, [] => true
  | p, e :: es =>
    (match e with
      | .smp _ => p.sdaDir == .input
      | .cfg .. | .drv .. | .wait _ => true) && PinView.samplesInInput (p.apply e) es

/-- One reading of the two latches: where a latch is UNSPEC a model admits both (R35). -/
structure Wire where
  dir : SdaDir
  scl : Bit
  sda : Bit
  deriving DecidableEq, Repr

/-- `sda_master`: SDA_OUT in output mode, else released, 1 (R23). -/
def Wire.sdaMaster (w : Wire) : Bit := if w.dir = .output then w.sda else true

/-- `sda_line`: the wired-AND of the engine and the slaves, with a pull-up (R23). Before INIT has configured the pin the line's
level is the platform's, any value (70_reset_and_hazards.md R127, 93_implementation_defined.md I6): UNSPEC there, although R23's
formula taken alone would give 1 (DEDUCED, log 19). -/
def Wire.sdaLine (w : Wire) (slavePullsLow : Bool) : Held Bit :=
  if w.dir = .unconf then .unspec else .val (w.sdaMaster && !slavePullsLow)

/-- The readings of the pins (R35; log 14). -/
def PinView.wires (p : PinView) : List Wire :=
  p.sclOut.readings.flatMap fun scl => p.sdaOut.readings.map fun sda => ⟨p.sdaDir, scl, sda⟩

/-- The clock line's level: SCL_OUT once SCL is configured (R21); before that the platform's. -/
def PinView.sclLine (p : PinView) : Held Bit := if p.sclCfg = .unconf then .unspec else p.sclOut

/-- A bus condition at an event (R35). -/
inductive Edge where
  | none
  | start
  | stop
  deriving DecidableEq, Repr

/-- One event on one reading of the pins. -/
def Wire.apply (w : Wire) : PinEvent → Wire
  | .cfg .sda .od => { w with dir := .output }
  | .cfg .sda .ipu => { w with dir := .input }
  | .drv .scl l => { w with scl := l }
  | .drv .sda l => { w with sda := l }
  | .cfg .sda .pp | .cfg .scl _ | .smp _ | .wait _ => w

/-- A change of `sda_master` while SCL_OUT = 1: from 1 to 0 a start edge, from 0 to 1 a stop edge (R35). -/
def Wire.edge (w : Wire) (e : PinEvent) : Edge :=
  let w' := w.apply e
  if w.scl && w'.scl then
    match w.sdaMaster, w'.sdaMaster with
    | true, false => .start
    | false, true => .stop
    | _, _ => .none
  else .none

/-- The conditions an event may be, one for each reading of the UNSPEC latches, without repeats (R35). -/
def PinView.edges (p : PinView) (e : PinEvent) : List Edge := (p.wires.map fun w => w.edge e).dedup

/-- The conditions along a run of events, event by event. -/
def PinView.edgesAlong : PinView → List PinEvent → List (List Edge)
  | _, [] => []
  | p, e :: es => p.edges e :: PinView.edgesAlong (p.apply e) es

/-- The events, counted from `k`, that are a start or a stop edge in every reading, with which it is. -/
def sureEdges : Nat → List (List Edge) → List (Nat × Edge)
  | _, [] => []
  | k, [.start] :: es => (k, .start) :: sureEdges (k + 1) es
  | k, [.stop] :: es => (k, .stop) :: sureEdges (k + 1) es
  | k, _ :: es => sureEdges (k + 1) es

end Sys2Proof.Machine
end

