-- ==== Sys2Proof/Machine/Sequencer.lean ====
section
/-! DEFINITION. The block one pin event at a time (00_scope.md R12): each command's expansion as a list of micro-operations, and
an engine whose step is one pin event together with the writes that stand beside it. `exec` is the host's view of the same
expansions, a whole command as one step (log 5). -/

namespace Sys2Proof.Machine

/-- A write, or a check, of the pseudocode that is no pin event. -/
inductive Write where
  | initDone
  | checkProto (p : Prim)
  | busState (b : BusState)
  | result (r : Result)
  | ignNack (b : Bit)
  | rxData (v : Byte)
  /-- `MemWrite(i, 1, v)`. -/
  | store (i v : Byte)
  deriving DecidableEq, Repr

/-- The write's effect. -/
def Write.apply : Write → State → State
  | .initDone, s => s.setInitDone
  | .checkProto p, s => s.checkProto p
  | .busState b, s => s.setBusState b
  | .result r, s => s.setResult r
  | .ignNack b, s => s.setIgnNack b
  | .rxData v, s => s.setRxData v
  | .store i v, s => s.memWrite i v

/-- What a Wait-Ack's outcome is used for. -/
inductive AckUse where
  /-- The WAIT_ACK command: RESULT (41_primitives.md R91). -/
  | command
  /-- The checked address phase: a timeout aborts the transaction (42_transactions.md R97). -/
  | checked
  /-- An ignored Wait-Ack: a timeout sets IGN_NACK (R98). -/
  | ignored
  deriving DecidableEq, Repr

/-- One step of an expansion: a pin event with the writes bound to it, or a write that goes with the event after or before it
(log 5). The counts and bytes they carry are BITCNT, RCV, POLL and IDX (10_state.md R34); SHIFT is in the bits to come. -/
inductive Micro where
  /-- A write that belongs to the event after it. -/
  | before (w : Write)
  /-- A write that belongs to the event before it. -/
  | after (w : Write)
  | cfgScl
  | cfgSda (out : Bit)
  | drvScl (level : Bit)
  | drvSda (level : Bit)
  | wait
  /-- `b <- SMP(); SAMPLE <- b` of RD_SDA (40_pin_signaling.md R78). -/
  | sampleLine
  /-- `b <- SMP(); RCV <- {RCV[6:0], b}` of RECV_BYTE, with `bitcnt` bits left after it (41_primitives.md R88); `dest` is the
  index of BUF the byte goes to, in READ_MULTI. -/
  | sampleBit (bitcnt : Nat) (rcv : Byte) (dest : Option Byte)
  /-- `b <- SMP()` of a Wait-Ack, with `left` samples left after it (R91). -/
  | samplePoll (left : Nat) (use : AckUse)
  /-- The first event of SEND_BYTE of BUF[idx], which is read immediately before (42_transactions.md R101, 20_memory.md R48). -/
  | sendFrom (idx : Byte)
  deriving DecidableEq, Repr

/-! ### The expansions -/

/-- `DRV(SCL, l); WAIT(T_D)`. -/
def sclOps (l : Bit) : List Micro := [.drvScl l, .wait]

/-- `DRV(SDA, l); WAIT(T_D)`. -/
def sdaOps (l : Bit) : List Micro := [.drvSda l, .wait]

/-- `CFG(SDA, ·); WAIT(T_D)`. -/
def directionOps (out : Bit) : List Micro := [.cfgSda out, .wait]

/-- START (41_primitives.md R81). -/
def startOps : List Micro :=
  .before (.checkProto .start) :: (sdaOps true ++ sclOps true ++ sdaOps false ++ sclOps false) ++ [.after (.busState .started)]

/-- STOP (R84). -/
def stopOps : List Micro :=
  .before (.checkProto .stop) :: (sclOps false ++ sdaOps false ++ sclOps true ++ sdaOps true) ++ [.after (.busState .idle)]

/-- The bit loop of SEND_BYTE (R86). -/
def shiftOutOps : Nat → Byte → List Micro
  | 0, _ => []
  | bitcnt + 1, shift => sclOps false ++ sdaOps (topBit shift) ++ sclOps true ++ shiftOutOps bitcnt (shiftLeft shift)

/-- The events of SEND_BYTE (R86). -/
def byteOutOps (v : Byte) : List Micro := shiftOutOps 8 v ++ sclOps false

/-- SEND_BYTE (R86). -/
def sendByteOps (v : Byte) : List Micro := .before (.checkProto .sendByte) :: byteOutOps v

/-- RECV_BYTE with `bitcnt` bits to come (R88). -/
def bitInOps : Nat → Byte → Option Byte → List Micro
  | 0, rcv, dest =>
    sclOps false ++ directionOps true ++ [.after (.rxData rcv)]
      ++ (match dest with
        | some i => [.after (.store i rcv)]
        | none => [])
  | bitcnt + 1, rcv, dest => sclOps false ++ sclOps true ++ [.sampleBit bitcnt rcv dest]

/-- RECV_BYTE (R88). -/
def recvByteOps (dest : Option Byte) : List Micro :=
  .before (.checkProto .recvByte) :: directionOps false ++ bitInOps 8 0 dest

/-- SEND_ACK (R94). -/
def sendAckOps : List Micro := .before (.checkProto .sendAck) :: sdaOps false ++ sclOps true ++ sclOps false

/-- SEND_NACK (R95). -/
def sendNackOps : List Micro := .before (.checkProto .sendNack) :: sdaOps true ++ sclOps true ++ sclOps false

/-- The acknowledge exit of a Wait-Ack, and what follows it (R91). -/
def ackOps (use : AckUse) (rest : List Micro) : List Micro :=
  directionOps true ++ sclOps false
    ++ (match use with
      | .command => .after (.result .ok) :: rest
      | .checked => rest
      | .ignored => rest)

/-- The timeout exit of a Wait-Ack, and what follows it: an abort ends the command (R91, 42_transactions.md R97, R98). -/
def timeoutOps (p : Params) (use : AckUse) (rest : List Micro) : List Micro :=
  directionOps true ++ stopOps
    ++ (match use with
      | .command => .after (.result .ackTimeout) :: rest
      | .checked => (if p.abortStop2 then stopOps else []) ++ [.after (.result .ackTimeout)]
      | .ignored => .after (.ignNack true) :: rest)

/-- The poll loop with `left` samples left (41_primitives.md R91). -/
def pollOps (p : Params) (use : AckUse) (rest : List Micro) : Nat → List Micro
  | 0 => timeoutOps p use rest
  | left + 1 => .samplePoll left use :: rest

/-- `wait_ack()` (R91), what its outcome is used for, and what follows it. -/
def waitAckOps (p : Params) (use : AckUse) (rest : List Micro) : List Micro :=
  .before (.checkProto .waitAck) :: directionOps false ++ sclOps true ++ pollOps p use rest p.ackPollBudget

/-- `call SEND_BYTE(v); ign_ack()` (42_transactions.md R98). -/
def sendIgnoredOps (p : Params) (v : Byte) (rest : List Micro) : List Micro := sendByteOps v ++ waitAckOps p .ignored rest

/-- The opening of WRITE_ONE, WRITE_MULTI and READ_MULTI (R97). -/
def checkedAddressOps (p : Params) (dev : DevAddr) (rest : List Micro) : List Micro :=
  .before (.ignNack false) :: startOps ++ sendByteOps (addrByte dev false) ++ waitAckOps p .checked rest

/-- `call STOP; RESULT <- OK`. -/
def closeOps : List Micro := stopOps ++ [.after (.result .ok)]

/-- The data loop of WRITE_MULTI (R101). -/
def sendBufOps (p : Params) (rest : List Micro) : Nat → Byte → List Micro
  | 0, _ => rest
  | left + 1, idx => .sendFrom idx :: waitAckOps p .ignored (sendBufOps p rest left (idx + 1))

/-- The data loop of READ_MULTI (R105). -/
def recvBufOps (rest : List Micro) : Nat → Byte → List Micro
  | 0, _ => rest
  | left + 1, idx =>
    recvByteOps (some idx) ++ (if left = 0 then sendNackOps else sendAckOps) ++ recvBufOps rest left (idx + 1)

/-- The expansion of each command on an instance with the parameters `p` (R12). -/
def microOps (p : Params) : Instr → List Micro
  | .init => [.cfgScl, .cfgSda true, .after .initDone, .after (.result .ok)]
  | .setDir out => [.cfgSda out, .after (.result .ok)]
  | .wrScl l => [.drvScl l, .after (.result .ok)]
  | .wrSda l => [.drvSda l, .after (.result .ok)]
  | .rdSda => [.sampleLine, .after (.result .ok)]
  | .start => startOps ++ [.after (.result .ok)]
  | .stop => closeOps
  | .sendByte v => sendByteOps v ++ [.after (.result .ok)]
  | .recvByte => recvByteOps none ++ [.after (.result .ok)]
  | .waitAck => waitAckOps p .command []
  | .sendAck => sendAckOps ++ [.after (.result .ok)]
  | .sendNack => sendNackOps ++ [.after (.result .ok)]
  | .writeOne dev reg val => checkedAddressOps p dev (sendIgnoredOps p reg (sendIgnoredOps p val closeOps))
  | .writeMulti dev reg n => checkedAddressOps p dev (sendIgnoredOps p reg (sendBufOps p closeOps n.toNat 0))
  | .readOne dev reg =>
    .before (.ignNack false) :: startOps ++ sendIgnoredOps p (addrByte dev false) (sendIgnoredOps p reg
      (startOps ++ sendIgnoredOps p (addrByte dev true) (recvByteOps none ++ sendNackOps ++ closeOps)))
  | .readMulti dev reg n =>
    checkedAddressOps p dev (sendIgnoredOps p reg
      (startOps ++ sendIgnoredOps p (addrByte dev true) (recvBufOps closeOps n.toNat 0)))

/-! ### One pin event -/

/-- A micro-operation's effect, and what is left of the expansion after it. -/
def Micro.run (m : Micro) (rest : List Micro) (s : State) : List Micro × State :=
  match m with
  | .before w => (rest, w.apply s)
  | .after w => (rest, w.apply s)
  | .cfgScl => (rest, s.cfgScl)
  | .cfgSda out => (rest, if out then s.cfgSdaOut else s.cfgSdaIn)
  | .drvScl l => (rest, s.drvScl l)
  | .drvSda l => (rest, s.drvSda l)
  | .wait => (rest, s.wait)
  | .sampleLine => (rest, s.afterSmp.setSample s.envAnswer)
  | .sampleBit bitcnt rcv dest => (bitInOps bitcnt (shiftInBit rcv s.envAnswer) dest ++ rest, s.afterSmp)
  | .samplePoll left use =>
    (if s.envAnswer then .wait :: pollOps s.params use rest left else ackOps use rest, s.afterSmp)
  | .sendFrom idx =>
    ((byteOutOps (s.memRead idx).1).tail ++ rest, ((s.memRead idx).2.checkProto .sendByte).drvScl false)

/-- One instance: its state, and what is left of the command that runs; nothing is left between commands. -/
structure Engine where
  state : State
  todo  : List Micro
  deriving DecidableEq, Repr

/-- The writes that go with the event just issued. -/
def settle : List Micro → State → Engine
  | .after w :: rest, s => settle rest (w.apply s)
  | rest, s => ⟨s, rest⟩

/-- The next pin event of an expansion, with the writes beside it (R12). -/
def nextEvent : List Micro → State → Engine
  | [], s => ⟨s, []⟩
  | .before w :: rest, s => nextEvent rest (w.apply s)
  | .after w :: rest, s => nextEvent rest (w.apply s)
  | m :: rest, s => settle (m.run rest s).1 (m.run rest s).2

/-- A running command's next pin event; between commands nothing. -/
def Engine.event (e : Engine) : Engine := nextEvent e.todo e.state

/-- Up to `n` further events of the command that runs. -/
def Engine.finish : Nat → Engine → Engine
  | 0, e => e
  | n + 1, e => Engine.finish n e.event

/-- A command the host issues: the checks of 60_exceptions.md R109, and, if it passes them, its first pin event. -/
def Engine.accept (c : Instr) (s : State) : Engine :=
  match acceptance c s with
  | some f => ⟨s.raiseFault f, []⟩
  | none => nextEvent (microOps s.params c) s

/-- What a host access does to an engine that runs no command. -/
def Engine.serve (m : HostMove) (s : State) : Host.Outcome Engine Fault Refusal :=
  match m with
  | .command w =>
    match decode w with
    | .command c => .next (Engine.accept c s)
    | .illegal _ => .next ⟨s.raiseFault .illegal, []⟩
  | .readStatus | .readRxData | .readBuf _ | .writeBuf .. | .ignoredWrite =>
    match hostStep m s with
    | .next t => .next ⟨t, []⟩
    | .fault f => .fault f
    | .refused r => .refused r

/-- One step of an instance, at the grain of pin events (R12): the next event of the command that runs, or, if none runs, the
host's next access (20_memory.md R47). -/
def Engine.step (e : Engine) : Host.Outcome Engine Fault Refusal :=
  if e.todo = [] then
    match e.state.pending with
    | [] => .next e
    | a :: _ =>
      match hostMove a with
      | some m => Engine.serve m e.state.takePending
      | none => .refused .noSuchHostAccess
  else .next e.event

end Sys2Proof.Machine
end

