-- ==== Sys2Proof/Machine/Platform.lean ====
section
/-! DEFINITION. Several instances side by side (60_exceptions.md R122, 10_state.md R17): independent agents that share no state,
each with a trace, draws and a bus environment of its own, interleaved pin event by pin event. An instance is named by its pin
pair, and instances that name one pin are an ill-formed configuration. -/

namespace Sys2Proof.Machine

/-- `N_BUS` instances (00_scope.md R7). -/
structure Platform where
  buses : List Engine
  deriving DecidableEq, Repr

/-- The pins an instance is bound to. -/
def State.boundPins (s : State) : List PinId := [s.params.sclPin, s.params.sdaPin]

/-- The pins an engine is bound to. -/
def Engine.boundPins (e : Engine) : List PinId := e.state.boundPins

/-- The instance names a pin that is in the list. -/
def Engine.usesOneOf (e : Engine) (pins : List PinId) : Bool := e.boundPins.any fun p => pins.contains p

/-- No two of the instances name the same pin (R17). One instance that names one pin twice shares it with no other instance and
is let through: the spec is silent on it (DESIGN CHOICE, log 18). -/
def noSharedPin : List Engine → Bool
  | [] => true
  | e :: rest => rest.all (fun f => !f.usesOneOf e.boundPins) && noSharedPin rest

/-- At least one instance, and no two on one pin (R7, R17). -/
def Platform.wf (p : Platform) : Bool := !p.buses.isEmpty && noSharedPin p.buses

/-- The instance bound to the pin pair `id`, and only it, takes a step: one pin event, or a host access (00_scope.md R12). -/
def stepBus (id : List PinId) : List Engine → Host.Outcome (List Engine) Fault Refusal
  | [] => .refused .noSuchInstance
  | e :: rest =>
    if e.boundPins = id then
      match e.step with
      | .next f => .next (f :: rest)
      | .fault f => .fault f
      | .refused r => .refused r
    else
      match stepBus id rest with
      | .next es => .next (e :: es)
      | .fault f => .fault f
      | .refused r => .refused r

/-- A step of one instance of the platform; an ill-formed configuration is refused (R17; log 12). -/
def Platform.step (scl sda : PinId) (p : Platform) : Host.Outcome Platform Fault Refusal :=
  if p.wf then
    match stepBus [scl, sda] p.buses with
    | .next es => .next ⟨es⟩
    | .fault f => .fault f
    | .refused r => .refused r
  else .refused .pinAliasing

/-- The offset of a host address in the window at `BASE` (20_memory.md R39). -/
def windowOffset (base addr : Nat) : Option Offset :=
  if base ≤ addr ∧ addr < base + 512 then some (BitVec.ofNat 9 (addr - base)) else none

end Sys2Proof.Machine
end

