-- ==== Sys2Proof/Safety.lean ====
section
/-! DEFINITION. The terms that claims use: frames, the event sequences the rules write out, safe runs, and the invariant. -/

namespace Sys2Proof.Safety

open Sys2Proof.Machine

/-! ### Frames -/

/-- The fields of the state. -/
inductive FieldName where
  | params | initDone | sclCfg | sdaDir | sclOut | sdaOut | busState | result | ignNack | protoViol | sample | rxData
  | fIllegal | fRdOut | fNoInit | fReinit | buf | trace | env | draws | pending | replies
  deriving DecidableEq, Repr

/-- The field holds the same in both states; BUF: every byte of it reads the same. -/
def FieldName.same (s t : State) : FieldName → Prop
  | .params => t.params = s.params
  | .initDone => t.initDone = s.initDone
  | .sclCfg => t.sclCfg = s.sclCfg
  | .sdaDir => t.sdaDir = s.sdaDir
  | .sclOut => t.sclOut = s.sclOut
  | .sdaOut => t.sdaOut = s.sdaOut
  | .busState => t.busState = s.busState
  | .result => t.result = s.result
  | .ignNack => t.ignNack = s.ignNack
  | .protoViol => t.protoViol = s.protoViol
  | .sample => t.sample = s.sample
  | .rxData => t.rxData = s.rxData
  | .fIllegal => t.fIllegal = s.fIllegal
  | .fRdOut => t.fRdOut = s.fRdOut
  | .fNoInit => t.fNoInit = s.fNoInit
  | .fReinit => t.fReinit = s.fReinit
  | .buf => ∀ i, bufGet t.buf i = bufGet s.buf i
  | .trace => t.trace = s.trace
  | .env => t.env = s.env
  | .draws => t.draws = s.draws
  | .pending => t.pending = s.pending
  | .replies => t.replies = s.replies

/-- Every field outside `changed` is the same in `t` as in `s`. -/
def KeepsAllBut (changed : List FieldName) (s t : State) : Prop := ∀ f, f ∉ changed → f.same s t

/-! ### What it takes for a command to run, and how it is refused -/

/-- The word, and no other, spells the command (30_encoding.md R63). -/
def SpelledOnlyBy (i : Instr) (w : Word) : Prop := ∀ v, decode v = .command i ↔ v = w

/-- Before INIT the command is refused with F_NOINIT and has no other effect (60_exceptions.md R109, R112). -/
def RefusedBeforeInit (i : Instr) : Prop := ∀ s, s.initDone = false → exec i s = .next { s with fNoInit := true }

/-! ### Event sequences, `d` the delay `T_D` (41_primitives.md R81 to R95) -/

/-- START (R81). -/
def startEvents (d : Nat) : List PinEvent :=
  [.drv .sda true, .wait d, .drv .scl true, .wait d, .drv .sda false, .wait d, .drv .scl false, .wait d]

/-- STOP (R84). -/
def stopEvents (d : Nat) : List PinEvent :=
  [.drv .scl false, .wait d, .drv .sda false, .wait d, .drv .scl true, .wait d, .drv .sda true, .wait d]

/-- The bits of a byte, bit 7 first (R87, R89). -/
def msbFirst (v : Byte) : List Bit :=
  [v.getLsbD 7, v.getLsbD 6, v.getLsbD 5, v.getLsbD 4, v.getLsbD 3, v.getLsbD 2, v.getLsbD 1, v.getLsbD 0]

/-- One bit on a clock pulse (R86). -/
def bitOutEvents (d : Nat) (b : Bit) : List PinEvent :=
  [.drv .scl false, .wait d, .drv .sda b, .wait d, .drv .scl true, .wait d]

/-- SEND_BYTE (R86, R87). -/
def sendByteEvents (d : Nat) (v : Byte) : List PinEvent :=
  (msbFirst v).flatMap (bitOutEvents d) ++ [.drv .scl false, .wait d]

/-- One sample on a clock pulse (R88). -/
def bitInEvents (d : Nat) (b : Bit) : List PinEvent :=
  [.drv .scl false, .wait d, .drv .scl true, .wait d, .smp b]

/-- RECV_BYTE whose samples are the bits of `v`, bit 7 first (R88, R89). -/
def recvByteEvents (d : Nat) (v : Byte) : List PinEvent :=
  [.cfg .sda .ipu, .wait d] ++ (msbFirst v).flatMap (bitInEvents d)
    ++ [.drv .scl false, .wait d, .cfg .sda .od, .wait d]

/-- SEND_ACK (R94). -/
def sendAckEvents (d : Nat) : List PinEvent :=
  [.drv .sda false, .wait d, .drv .scl true, .wait d, .drv .scl false, .wait d]

/-- SEND_NACK (R95). -/
def sendNackEvents (d : Nat) : List PinEvent :=
  [.drv .sda true, .wait d, .drv .scl true, .wait d, .drv .scl false, .wait d]

/-- How a Wait-Ack ends (R92): the first low sample is the `j`-th, or none of the budget's samples is low. -/
inductive AckResult where
  | ackAt (j : Nat)
  | timeout
  deriving DecidableEq, Repr

/-- The result can arise with that poll budget: `1 ≤ j ≤ budget` (R92). -/
def AckResult.Possible (budget : Nat) : AckResult → Prop
  | .ackAt j => 1 ≤ j ∧ j ≤ budget
  | .timeout => True

/-- The Wait-Ack timed out. -/
def AckResult.timedOut : AckResult → Bool
  | .ackAt _ => false
  | .timeout => true

/-- `n` high samples, each followed by a delay (R91). -/
def highSamples (d n : Nat) : List PinEvent := (List.replicate n [PinEvent.smp true, .wait d]).flatten

/-- WAIT_ACK's events by its result (R91, R92). -/
def waitAckEvents (d budget : Nat) : AckResult → List PinEvent
  | .ackAt j =>
    [.cfg .sda .ipu, .wait d, .drv .scl true, .wait d] ++ highSamples d (j - 1)
      ++ [.smp false, .cfg .sda .od, .wait d, .drv .scl false, .wait d]
  | .timeout =>
    [.cfg .sda .ipu, .wait d, .drv .scl true, .wait d] ++ highSamples d budget
      ++ [.cfg .sda .od, .wait d] ++ stopEvents d

/-- A byte sent and its Wait-Ack. -/
def sentEvents (d budget : Nat) (v : Byte) (a : AckResult) : List PinEvent :=
  sendByteEvents d v ++ waitAckEvents d budget a

/-- A transaction whose address phase timed out (42_transactions.md R97): START, the address byte for writing, the timed-out
Wait-Ack, and the transaction's own Stop where `ABORT_STOP2` is true. -/
def abortedEvents (p : Params) (dev : DevAddr) : List PinEvent :=
  startEvents p.tD ++ sentEvents p.tD p.ackPollBudget (addrByte dev false) .timeout
    ++ (if p.abortStop2 then stopEvents p.tD else [])

/-- The data phase of READ_MULTI (R105): every byte but the last is acknowledged, the last is not. -/
def readDataEvents (d : Nat) : List Byte → List PinEvent
  | [] => []
  | [v] => recvByteEvents d v ++ sendNackEvents d
  | v :: w :: vs => recvByteEvents d v ++ sendAckEvents d ++ readDataEvents d (w :: vs)

/-- The data phase of WRITE_MULTI (R101): each byte with its Wait-Ack. -/
def writeDataEvents (d budget : Nat) (sent : List (Byte × AckResult)) : List PinEvent :=
  sent.flatMap fun p => sentEvents d budget p.1 p.2

/-! ### Reading a trace -/

/-- The answers a run of events records. -/
def samplesOf : List PinEvent → List Bit
  | [] => []
  | .smp b :: es => b :: samplesOf es
  | .cfg .. :: es => samplesOf es
  | .drv .. :: es => samplesOf es
  | .wait _ :: es => samplesOf es

/-- The event is a `Wait`. -/
def isWait : PinEvent → Bool
  | .wait _ => true
  | .cfg .. | .drv .. | .smp _ => false

/-- The event is a `Drv`. -/
def isDrv : PinEvent → Bool
  | .drv .. => true
  | .cfg .. | .wait _ | .smp _ => false

/-- The event is a `Cfg`. -/
def isCfg : PinEvent → Bool
  | .cfg .. => true
  | .drv .. | .wait _ | .smp _ => false

/-- The event without the length of its delay. -/
def forgetDelay : PinEvent → PinEvent
  | .wait _ => .wait 0
  | .cfg p m => .cfg p m
  | .drv p l => .drv p l
  | .smp b => .smp b

/-- Every `Drv` and `Cfg` is followed by one `Wait(d)`, a sample that reads high may be, and no other `Wait` occurs (R82). -/
def delaysPlaced (d : Nat) : List PinEvent → Bool
  | [] => true
  | .drv _ _ :: .wait e :: es => e == d && delaysPlaced d es
  | .cfg _ _ :: .wait e :: es => e == d && delaysPlaced d es
  | .smp true :: .wait e :: es => e == d && delaysPlaced d es
  | .smp _ :: es => delaysPlaced d es
  | _ => false

/-- No event of the run is a start or a stop edge, in any reading of the latches (10_state.md R35). -/
def noEdges (p : PinView) (es : List PinEvent) : Prop := ∀ x ∈ p.edgesAlong es, x = [.none]

/-! ### Safe runs and the invariant -/

/-- STATUS bits 19:16 are all zero: the run did nothing the spec refuses (60_exceptions.md R113). -/
def noFault (s : State) : Bool := !s.fIllegal && !s.fRdOut && !s.fNoInit && !s.fReinit

/-- The bus is idle with both lines high and the data pin an output, so a new transaction can proceed (42_transactions.md R107). -/
structure BusIdle (s : State) : Prop where
  busState : s.busState = .idle
  sclOut : s.sclOut = .val true
  sdaOut : s.sdaOut = .val true
  sdaDir : s.sdaDir = .output

/-- The command is one of the four transactions (30_encoding.md R62, OPC 0x30 to 0x33). -/
def isTransaction : Instr → Bool
  | .writeOne .. | .writeMulti .. | .readOne .. | .readMulti .. => true
  | .init | .setDir _ | .wrScl _ | .wrSda _ | .rdSda | .start | .stop | .sendByte _ | .recvByte | .waitAck | .sendAck
  | .sendNack => false

/-- The command is a pin-level command or INIT, which place no delay (40_pin_signaling.md R73, R79). -/
def isPinLevel : Instr → Bool
  | .init | .setDir _ | .wrScl _ | .wrSda _ | .rdSda => true
  | .start | .stop | .sendByte _ | .recvByte | .waitAck | .sendAck | .sendNack | .writeOne .. | .writeMulti .. | .readOne ..
  | .readMulti .. => false

/-- The mode `SCL_CFG` holds once INIT has run (10_state.md R19). -/
def sclCfgOf : SclMode → SclCfg
  | .pp => .pp
  | .od => .od

/-- What holds of the block between host accesses, in every run from power-on reset. -/
structure Inv (s : State) : Prop where
  /-- BUF is in its canonical form (20_memory.md R41). -/
  bufWf : Memory.wf s.buf = true
  /-- The pin fields are what the recorded events make of the reset pins (40_pin_signaling.md R74). -/
  pinsFollowTrace : PinView.reset.replay s.trace = s.pins
  /-- SDA is sampled only in input mode (10_state.md R23). -/
  sampledInInput : PinView.reset.samplesInInput s.trace = true
  /-- Before INIT nothing has happened on the pins and no command has executed (70_reset_and_hazards.md R127, R128). -/
  beforeInit : s.initDone = false →
    s.trace = [] ∧ s.busState = .idle ∧ s.result = .ok ∧ s.ignNack = false ∧ s.protoViol = false ∧ s.sample = .unspec
      ∧ s.rxData = .unspec ∧ s.fRdOut = false ∧ s.fReinit = false
  /-- From INIT on the clock pin keeps its mode and the data pin a direction (10_state.md R19, R20). -/
  afterInit : s.initDone = true → s.sclCfg = sclCfgOf s.params.sclMode ∧ s.sdaDir ≠ .unconf

/-- What is left of a command: a write that belongs to an event has that event after it. -/
def writesPlaced : List Micro → Bool
  | [] => true
  | [.before _] => false
  | .before _ :: .after _ :: _ => false
  | .before _ :: m :: rest => writesPlaced (m :: rest)
  | .after _ :: rest | .cfgScl :: rest | .cfgSda _ :: rest | .drvScl _ :: rest | .drvSda _ :: rest | .wait :: rest
  | .sampleLine :: rest | .sampleBit .. :: rest | .samplePoll .. :: rest | .sendFrom _ :: rest => writesPlaced rest

/-- What is left of a command starts with an event, after the writes that belong to it. -/
def startsWithEvent : List Micro → Bool
  | [] => true
  | .after _ :: _ => false
  | .before _ :: _ | .cfgScl :: _ | .cfgSda _ :: _ | .drvScl _ :: _ | .drvSda _ :: _ | .wait :: _ | .sampleLine :: _
  | .sampleBit .. :: _ | .samplePoll .. :: _ | .sendFrom _ :: _ => true

/-- Between steps an engine runs nothing, or has an event to issue next. -/
def EngineInv (e : Engine) : Prop := writesPlaced e.todo = true ∧ startsWithEvent e.todo = true

end Sys2Proof.Safety
end

