-- ==== Sys2Proof/Certificates/Slice0/Obligations.lean ====
section
/-! DEFINITION. The statements for the provers. -/

open Sys2Proof Sys2Proof.Machine Sys2Proof.Safety

/-! ### Encoding -/

/-- The words of R71, legal and illegal. -/
def Obligations.SpecExampleWordsDecode : Prop :=
  decode 0x01000000 = .command .init ∧ encode .init = 0x01000000
  ∧ decode 0x10000000 = .command (.setDir false) ∧ encode (.setDir false) = 0x10000000
  ∧ decode 0x13000000 = .command .rdSda ∧ encode .rdSda = 0x13000000
  ∧ decode 0x220000A0 = .command (.sendByte 0xA0) ∧ encode (.sendByte 0xA0) = 0x220000A0
  ∧ decode 0x31686B02 = .command (.writeMulti 0x68 0x6B 2) ∧ encode (.writeMulti 0x68 0x6B 2) = 0x31686B02
  ∧ decode 0x32501000 = .command (.readOne 0x50 0x10) ∧ encode (.readOne 0x50 0x10) = 0x32501000
  ∧ decode 0x333C0003 = .command (.readMulti 0x3C 0x00 3) ∧ encode (.readMulti 0x3C 0x00 3) = 0x333C0003
  ∧ decode 0x307FFFFF = .command (.writeOne 0x7F 0xFF 0xFF) ∧ encode (.writeOne 0x7F 0xFF 0xFF) = 0x307FFFFF
  ∧ (∀ dev reg val, (encode (.writeOne dev reg val)).toNat ≤ 0x307FFFFF)
  ∧ decode 0x00000000 = .illegal .unassignedOpcode
  ∧ decode 0x20000001 = .illegal .reservedBit
  ∧ decode 0x10000002 = .illegal .reservedBit
  ∧ decode 0x30800000 = .illegal .reservedBit
  ∧ decode 0x32501001 = .illegal .readOneValue
  ∧ decode 0x333C0000 = .illegal .readMultiCount

/-- No operand bit of any command is lost: the word of a well-formed command decodes to it (R57 to R63). -/
def Obligations.DecodeOfEncode : Prop :=
  ∀ i : Instr, i.WellFormed → decode (encode i) = .command i

/-- R63: each legal word decodes to one command, and no two legal words to the same command with the same operands. -/
def Obligations.EncodeOfDecode : Prop :=
  ∀ (w : Word) (i : Instr), decode w = .command i → i.WellFormed ∧ encode i = w

/-- R64: the word selects the command of a row iff it meets the row's mask, match and constraint. -/
def Obligations.MatchMaskTableIsExact : Prop :=
  ∀ r ∈ opTable, ∀ w : Word, r.selects w = true ↔ ∃ i, decode w = .command i ∧ i.mnemonic = r.mnemonic

/-- The format N opcodes of R62. -/
def formatN : List Nat := [0x01, 0x13, 0x20, 0x21, 0x23, 0x24, 0x25, 0x26]

/-- The format L opcodes of R62. -/
def formatL : List Nat := [0x10, 0x11, 0x12]

/-- The format T opcodes of R62. -/
def formatT : List Nat := [0x30, 0x31, 0x32, 0x33]

/-- What makes a word illegal (R67): an opcode not in R62, a reserved bit of its format, R65, or R66. -/
def BreaksTheEncoding (w : Word) : Prop :=
  let opc := (w >>> 24).toNat
  (opc ∉ formatN ∧ opc ∉ formatL ∧ opc ≠ 0x22 ∧ opc ∉ formatT)
  ∨ (opc ∈ formatN ∧ w &&& 0x00FFFFFF ≠ 0)
  ∨ (opc ∈ formatL ∧ w &&& 0x00FFFFFE ≠ 0)
  ∨ (opc = 0x22 ∧ w &&& 0x00FFFF00 ≠ 0)
  ∨ (opc ∈ formatT ∧ w &&& 0x00800000 ≠ 0)
  ∨ (opc = 0x32 ∧ w &&& 0x000000FF ≠ 0)
  ∨ (opc = 0x33 ∧ w &&& 0x000000FF = 0)

/-- R67: exactly those words are illegal, the all-zero word among them; an illegal word written to CMD sets F_ILLEGAL,
appends nothing to the trace and changes no other state. -/
def Obligations.IllegalWordsAreRefused : Prop :=
  (∀ w, (∃ why, decode w = .illegal why) ↔ BreaksTheEncoding w)
  ∧ BreaksTheEncoding 0
  ∧ ∀ (s : State) (w : Word) (rest : List HostAccess), s.pending = .write .word 0x000 w :: rest → BreaksTheEncoding w →
      step s = .next { s with pending := rest, fIllegal := true }

/-- R61: `enc_T(opc, dev, reg, val) = (opc << 24) | (dev << 16) | (reg << 8) | val`, for the four transactions. -/
def Obligations.TransactionWordFormula : Prop :=
  ∀ (dev : DevAddr) (reg val : Byte),
    let encT := fun opc : Nat =>
      BitVec.ofNat 32 (opc <<< 24 ||| dev.toNat <<< 16 ||| reg.toNat <<< 8 ||| val.toNat)
    encode (.writeOne dev reg val) = encT 0x30 ∧ encode (.writeMulti dev reg val) = encT 0x31
    ∧ (val = 0 → encode (.readOne dev reg) = encT 0x32) ∧ encode (.readMulti dev reg val) = encT 0x33

/-- R14: the address byte is `(dev << 1) | rw`, and no bit of the device address is lost. -/
def Obligations.AddressByteValue : Prop :=
  ∀ (dev : DevAddr) (rw : Bit), (addrByte dev rw).toNat = 2 * dev.toNat + rw.toNat

/-- The assembler's examples (R69, R70; blanks and letter case as log 17 has them): each operand form and each number form gives
the rule's word, all seven pseudo-instructions give theirs, SEND_ADDR for every device and direction; and an operand out of range,
a missing or an extra operand is refused. -/
def Obligations.AssemblerExamples : Prop :=
  assembleWord "START".toList = some 0x20000000
  ∧ assembleWord "SET_DIR in".toList = some 0x10000000
  ∧ assembleWord "SET_DIR out".toList = some 0x10000001
  ∧ assembleWord "SET_DIR 0".toList = some 0x10000000
  ∧ assembleWord "SET_DIR 1".toList = some 0x10000001
  ∧ assembleWord "WR_SCL 1".toList = some 0x11000001
  ∧ assembleWord "WR_SDA 0".toList = some 0x12000000
  ∧ assembleWord "SEND_BYTE 0xA5".toList = some 0x220000A5
  ∧ assembleWord "SEND_BYTE 0b10100101 ; a comment".toList = some 0x220000A5
  ∧ assembleWord "SEND_BYTE 165".toList = some 0x220000A5
  ∧ assembleWord "WRITE_ONE 0x50, 0x10, 0x7F".toList = some 0x3050107F
  ∧ assembleWord "WRITE_MULTI 0x68, 0x6B, 0".toList = some 0x31686B00
  ∧ assembleWord "READ_ONE 0x50, 0x10".toList = some 0x32501000
  ∧ assembleWord "READ_MULTI 0x3C, 0x00, 3".toList = some 0x333C0003
  ∧ assembleWord "SDA_IN".toList = some 0x10000000
  ∧ assembleWord "SDA_OUTPUT".toList = some 0x10000001
  ∧ assembleWord "SCL_LO".toList = some 0x11000000
  ∧ assembleWord "SCL_HI".toList = some 0x11000001
  ∧ assembleWord "SDA_LO".toList = some 0x12000000
  ∧ assembleWord "SDA_HI".toList = some 0x12000001
  ∧ assembleWord "SEND_ADDR 0x50, 0".toList = some 0x220000A0
  ∧ assembleWord "SEND_ADDR 0x50, 1".toList = some 0x220000A1
  ∧ (∀ (dev : DevAddr) (rw : Bit),
      encode (Pseudo.sendAddr dev rw).expand = 0x22000000 ||| (addrByte dev rw).setWidth 32)
  ∧ assembleWord "WRITE_ONE 128, 0, 0".toList = none
  ∧ assembleWord "WRITE_ONE 0, 256, 0".toList = none
  ∧ assembleWord "WRITE_ONE 0, 0, 256".toList = none
  ∧ assembleWord "WRITE_MULTI 0, 0, 256".toList = none
  ∧ assembleWord "READ_MULTI 0x3C, 0, 0".toList = none
  ∧ assembleWord "SEND_BYTE 256".toList = none
  ∧ assembleWord "SEND_ADDR 128, 0".toList = none
  ∧ assembleWord "SEND_ADDR 0, 2".toList = none
  ∧ assembleWord "WR_SDA 2".toList = none
  ∧ assembleWord "READ_ONE 0x50".toList = none
  ∧ assembleWord "STOP 1".toList = none

/-- Every word the assembler gives is legal, and decodes to the command the line was read as (R69). -/
def Obligations.AssembledWordsAreLegal : Prop :=
  ∀ (line : List Char) (w : Word), assembleWord line = some w →
    ∃ i, assembleLine line = .command i ∧ i.WellFormed ∧ decode w = .command i

/-! ### The step and the host port -/

/-- A word at CMD that decodes to a command runs that command, after the access is taken from the pending list (R12, R47). -/
def Obligations.StepRunsTheDecodedCommand : Prop :=
  ∀ (s : State) (w : Word) (rest : List HostAccess) (i : Instr),
    s.pending = .write .word 0x000 w :: rest → decode w = .command i → step s = exec i { s with pending := rest }

/-- With no access pending the block waits and keeps all its state (R16, R124; the waiting step is the model's, log 4). -/
def Obligations.WaitingStepKeepsEverything : Prop :=
  ∀ s : State, s.pending = [] → step s = .next s

/-- The accesses of R45. -/
def Listed (a : HostAccess) : Prop :=
  (∃ w, a = .write .word 0x000 w) ∨ a = .read .word 0x004 ∨ a = .read .word 0x008
  ∨ (∃ i : Byte, a = .read .byte (BitVec.ofNat 9 (0x100 + i.toNat)))
  ∨ (∃ (i : Byte) (v : Word), a = .write .byte (BitVec.ofNat 9 (0x100 + i.toNat)) v)
  ∨ (∃ v, a = .write .word 0x004 v) ∨ ∃ v, a = .write .word 0x008 v

/-- R46, R54: exactly the accesses R45 does not list are refused as no host move (log 6). -/
def Obligations.OnlyListedAccessesAreServed : Prop :=
  ∀ (s : State) (a : HostAccess) (rest : List HostAccess), s.pending = a :: rest →
    (step s = .refused .noSuchHostAccess ↔ ¬ Listed a)

/-- R43, R45: a host byte write sets BUF[i] and changes nothing else (the byte in bits 7:0 of the access, log 4). -/
def Obligations.HostWriteSetsOneBufByte : Prop :=
  ∀ (s : State) (i : Byte) (v : Word) (rest : List HostAccess),
    s.pending = .write .byte (BitVec.ofNat 9 (0x100 + i.toNat)) v :: rest →
    ∃ t, step s = .next t ∧ t.pending = rest ∧ bufGet t.buf i.toNat = .val (v.setWidth 8)
      ∧ (∀ j, j ≠ i.toNat → bufGet t.buf j = bufGet s.buf j) ∧ KeepsAllBut [.buf, .pending] s t

/-- R42, R45: a host byte read returns BUF[i], or a fresh draw where it was never written, and has no side effect. -/
def Obligations.HostReadReturnsBufByte : Prop :=
  ∀ (s : State) (i : Byte) (rest : List HostAccess),
    s.pending = .read .byte (BitVec.ofNat 9 (0x100 + i.toNat)) :: rest →
    ∃ t v, step s = .next t ∧ t.pending = rest ∧ t.replies = s.replies ++ [.byte v]
      ∧ (∀ u, bufGet s.buf i.toNat = .val u → v = u ∧ t.draws = s.draws)
      ∧ (bufGet s.buf i.toNat = .unspec → v = s.byteDraw s.draws ∧ t.draws = s.draws + 1)
      ∧ KeepsAllBut [.pending, .replies, .draws] s t

/-- `b` is what a read of the bit field gives, as draw number `k` where the field is UNSPEC (R11). -/
def ReadsAs (s : State) (h : Held Bit) (k : Nat) (b : Bit) : Prop :=
  match h with
  | .val v => b = v
  | .unspec => b = s.bitDraw k

/-- How many draws a read of the field takes: one where it is UNSPEC. -/
def drawsOf (h : Held Bit) : Nat :=
  match h with
  | .val _ => 0
  | .unspec => 1

/-- R37: the fields of STATUS, bit by bit; the reserved bits read 0; each field that is UNSPEC reads as a draw of its own, and the
draw counter moves past all of them, so that no later read takes one of them again (the order of the draws is the model's,
log 1). -/
def Obligations.StatusReadsAsLaidOut : Prop :=
  ∀ (s : State) (rest : List HostAccess), s.pending = .read .word 0x004 :: rest →
    let k₆ := s.draws + drawsOf s.sclOut
    let k₇ := k₆ + drawsOf s.sdaOut
    ∃ t w, step s = .next t ∧ t.pending = rest ∧ t.replies = s.replies ++ [.word w]
      ∧ KeepsAllBut [.pending, .replies, .draws] s t
      ∧ (w.getLsbD 0 = true ↔ s.result = .ackTimeout) ∧ w.getLsbD 1 = s.ignNack
      ∧ (w.getLsbD 2 = true ↔ s.busState = .started) ∧ w.getLsbD 3 = s.initDone
      ∧ (w.getLsbD 4 = true ↔ s.sdaDir = .output)
      ∧ ReadsAs s s.sclOut s.draws (w.getLsbD 5) ∧ ReadsAs s s.sdaOut k₆ (w.getLsbD 6)
      ∧ ReadsAs s s.sample k₇ (w.getLsbD 7) ∧ t.draws = k₇ + drawsOf s.sample ∧ w.getLsbD 8 = s.protoViol
      ∧ (∀ k, 9 ≤ k → k ≤ 15 → w.getLsbD k = false)
      ∧ w.getLsbD 16 = s.fIllegal ∧ w.getLsbD 17 = s.fRdOut ∧ w.getLsbD 18 = s.fNoInit ∧ w.getLsbD 19 = s.fReinit
      ∧ (∀ k, 20 ≤ k → w.getLsbD k = false)

/-- R38: RXDATA reads as its byte, zero-extended, or as a draw before the first RECV_BYTE; 32-bit writes to STATUS and RXDATA
have no effect. -/
def Obligations.RxDataReadAndIgnoredWrites : Prop :=
  (∀ (s : State) (rest : List HostAccess), s.pending = .read .word 0x008 :: rest →
    ∃ t v, step s = .next t ∧ t.pending = rest ∧ t.replies = s.replies ++ [.word (BitVec.ofNat 32 (BitVec.toNat (v : Byte)))]
      ∧ (∀ u, s.rxData = .val u → v = u ∧ t.draws = s.draws)
      ∧ (s.rxData = .unspec → v = s.byteDraw s.draws ∧ t.draws = s.draws + 1)
      ∧ KeepsAllBut [.pending, .replies, .draws] s t)
  ∧ ∀ (s : State) (v : Word) (off : Offset) (rest : List HostAccess), off = 0x004 ∨ off = 0x008 →
      s.pending = .write .word off v :: rest → step s = .next { s with pending := rest }

/-! ### Reset and INIT -/

/-- R18, R127: every field after power-on reset, for any parameters, and what STATUS then reads. -/
def Obligations.PowerOnResetValues : Prop :=
  ∀ p : Params, ∃ s, s = State.powerOn p ∧ s.params = p
    ∧ s.initDone = false ∧ s.sclCfg = .unconf ∧ s.sdaDir = .unconf ∧ s.sclOut = .unspec ∧ s.sdaOut = .unspec
    ∧ s.busState = .idle ∧ s.result = .ok ∧ s.ignNack = false ∧ s.protoViol = false ∧ s.sample = .unspec
    ∧ s.rxData = .unspec ∧ s.fIllegal = false ∧ s.fRdOut = false ∧ s.fNoInit = false ∧ s.fReinit = false
    ∧ (∀ i, bufGet s.buf i = .unspec) ∧ s.trace = []
    ∧ ∃ t w, step { s with pending := [.read .word 0x004] } = .next t ∧ t.replies = s.replies ++ [.word w]
        ∧ w &&& 0xFFFFFF1F = 0

/-- R73: INIT. -/
def Obligations.InitCreatesTheHandle : Prop :=
  SpelledOnlyBy .init 0x01000000
  ∧ (∀ s : State, s.initDone = true → exec .init s = .next { s with fReinit := true })
  ∧ ∀ s : State, s.initDone = false → ∃ t, exec .init s = .next t
      ∧ t.trace = s.trace ++ [.cfg .scl s.params.sclMode.pinMode, .cfg .sda .od]
      ∧ t.sclCfg = sclCfgOf s.params.sclMode ∧ t.sdaDir = .output ∧ t.initDone = true ∧ t.result = .ok
      ∧ KeepsAllBut [.trace, .sclCfg, .sdaDir, .initDone, .result] s t

/-- R129: right after INIT every other field is as at reset, and the first START has its start edge whatever the latches
hold. -/
def Obligations.StateRightAfterInit : Prop :=
  ∀ p : Params, ∃ t, exec .init (State.powerOn p) = .next t
    ∧ t.initDone = true ∧ t.sclCfg = sclCfgOf p.sclMode ∧ t.sdaDir = .output ∧ t.result = .ok
    ∧ KeepsAllBut [.trace, .sclCfg, .sdaDir, .initDone] (State.powerOn p) t
    ∧ (t.pins.edgesAlong (startEvents p.tD))[4]? = some [.start]

/-- R109: the checks in their order, each with its fault bit and no other effect (R112); a command that passes them all runs. -/
def Obligations.AcceptanceChecksInOrder : Prop :=
  ∀ (s : State) (w : Word) (rest : List HostAccess), s.pending = .write .word 0x000 w :: rest →
    let s' := { s with pending := rest }
    (∀ why, decode w = .illegal why → step s = .next { s' with fIllegal := true })
    ∧ ∀ c, decode w = .command c →
        (c = .init → s.initDone = true → step s = .next { s' with fReinit := true })
        ∧ (c ≠ .init → s.initDone = false → step s = .next { s' with fNoInit := true })
        ∧ (c = .rdSda → s.initDone = true → s.sdaDir = .output → step s = .next { s' with fRdOut := true })
        ∧ ((c = .init ↔ s.initDone = false) → (c = .rdSda → s.sdaDir ≠ .output) →
            ∃ t es, step s = .next t ∧ es ≠ [] ∧ t.trace = s'.trace ++ es
              ∧ KeepsAllBut [.initDone, .sclCfg, .sdaDir, .sclOut, .sdaOut, .busState, .result, .ignNack, .protoViol, .sample,
                  .rxData, .buf, .trace, .env, .draws] s' t)

/-! ### Pin-level commands -/

/-- R75: SET_DIR. -/
def Obligations.SetDirEffect : Prop :=
  SpelledOnlyBy (.setDir false) 0x10000000 ∧ SpelledOnlyBy (.setDir true) 0x10000001
  ∧ (∀ out, RefusedBeforeInit (.setDir out))
  ∧ ∀ (out : Bit) (s : State), s.initDone = true → ∃ t, exec (.setDir out) s = .next t
      ∧ t.trace = s.trace ++ [.cfg .sda (if out then .od else .ipu)]
      ∧ t.sdaDir = (if out then .output else .input) ∧ t.result = .ok
      ∧ KeepsAllBut [.trace, .sdaDir, .result] s t
      ∧ (out = true → s.sdaDir = .input → s.sdaOut = .val false → s.sclOut = .val true →
          s.pins.edges (.cfg .sda .od) = [.start])

/-- R76: WR_SCL. -/
def Obligations.WrSclEffect : Prop :=
  SpelledOnlyBy (.wrScl false) 0x11000000 ∧ SpelledOnlyBy (.wrScl true) 0x11000001
  ∧ (∀ l, RefusedBeforeInit (.wrScl l))
  ∧ ∀ (l : Bit) (s : State), s.initDone = true → ∃ t, exec (.wrScl l) s = .next t
      ∧ t.trace = s.trace ++ [.drv .scl l] ∧ t.sclOut = .val l ∧ t.result = .ok
      ∧ KeepsAllBut [.trace, .sclOut, .result] s t

/-- R77: WR_SDA, with its corner cases: latch only in input mode; in output mode with SCL_OUT = 1 a change is an edge. -/
def Obligations.WrSdaEffect : Prop :=
  SpelledOnlyBy (.wrSda false) 0x12000000 ∧ SpelledOnlyBy (.wrSda true) 0x12000001
  ∧ (∀ l, RefusedBeforeInit (.wrSda l))
  ∧ ∀ (l : Bit) (s : State), s.initDone = true → ∃ t, exec (.wrSda l) s = .next t
      ∧ t.trace = s.trace ++ [.drv .sda l] ∧ t.sdaOut = .val l ∧ t.result = .ok
      ∧ KeepsAllBut [.trace, .sdaOut, .result] s t
      ∧ (s.sdaDir = .input → s.pins.edges (.drv .sda l) = [.none])
      ∧ (s.sdaDir = .output → s.sclOut = .val true → s.sdaOut = .val (!l) →
          s.pins.edges (.drv .sda l) = [if l then .stop else .start])

/-- R78: RD_SDA, and its refusal in output mode. -/
def Obligations.RdSdaEffect : Prop :=
  SpelledOnlyBy .rdSda 0x13000000 ∧ RefusedBeforeInit .rdSda
  ∧ (∀ s : State, s.initDone = true → s.sdaDir = .output → exec .rdSda s = .next { s with fRdOut := true })
  ∧ ∀ s : State, s.initDone = true → s.sdaDir ≠ .output → ∃ t b, exec .rdSda s = .next t
      ∧ t.trace = s.trace ++ [.smp b] ∧ t.sample = .val b ∧ t.result = .ok
      ∧ (∀ a rest, s.env = a :: rest → b = a ∧ t.env = rest)
      ∧ (s.env = [] → b = s.busAnswer s.trace ∧ t.env = [])
      ∧ KeepsAllBut [.trace, .sample, .result, .env] s t

/-! ### Primitives -/

/-- R81: START; its start edge is the fifth event in output mode, the first drive is a stop edge where SCL was high and SDA low,
and in input mode no edge reaches the line. -/
def Obligations.StartEffect : Prop :=
  SpelledOnlyBy .start 0x20000000 ∧ RefusedBeforeInit .start
  ∧ ∀ s : State, s.initDone = true → ∃ t, exec .start s = .next t
      ∧ t.trace = s.trace ++ startEvents s.params.tD
      ∧ t.sdaOut = .val false ∧ t.sclOut = .val false ∧ t.busState = .started ∧ t.result = .ok
      ∧ t.protoViol = (s.protoViol || s.sdaDir == .input)
      ∧ KeepsAllBut [.trace, .sdaOut, .sclOut, .busState, .result, .protoViol] s t
      ∧ (s.sdaDir = .output → (s.pins.edgesAlong (startEvents s.params.tD))[4]? = some [.start])
      ∧ (s.sdaDir = .output → s.sclOut = .val true → s.sdaOut = .val false →
          (s.pins.edgesAlong (startEvents s.params.tD))[0]? = some [.stop])
      ∧ (s.sdaDir = .input → noEdges s.pins (startEvents s.params.tD))

/-- R84: STOP; its stop edge is the seventh event in output mode. -/
def Obligations.StopEffect : Prop :=
  SpelledOnlyBy .stop 0x21000000 ∧ RefusedBeforeInit .stop
  ∧ ∀ s : State, s.initDone = true → ∃ t, exec .stop s = .next t
      ∧ t.trace = s.trace ++ stopEvents s.params.tD
      ∧ t.sclOut = .val true ∧ t.sdaOut = .val true ∧ t.busState = .idle ∧ t.result = .ok
      ∧ t.protoViol = (s.protoViol || s.sdaDir == .input)
      ∧ KeepsAllBut [.trace, .sdaOut, .sclOut, .busState, .result, .protoViol] s t
      ∧ (s.sdaDir = .output → (s.pins.edgesAlong (stopEvents s.params.tD))[6]? = some [.stop])

/-- R86, R87: SEND_BYTE drives bit 7 first, bit 0 last, and the byte holds no start and no stop edge. -/
def Obligations.SendByteEffect : Prop :=
  (∀ v : Byte, SpelledOnlyBy (.sendByte v) (0x22000000 ||| v.setWidth 32) ∧ RefusedBeforeInit (.sendByte v))
  ∧ ∀ (v : Byte) (s : State), s.initDone = true → ∃ t, exec (.sendByte v) s = .next t
      ∧ t.trace = s.trace ++ sendByteEvents s.params.tD v
      ∧ (sendByteEvents s.params.tD v).length = 50
      ∧ t.sclOut = .val false ∧ t.sdaOut = .val (v.getLsbD 0) ∧ t.result = .ok
      ∧ t.protoViol = (s.protoViol || s.busState == .idle || s.sdaDir == .input)
      ∧ KeepsAllBut [.trace, .sclOut, .sdaOut, .result, .protoViol] s t
      ∧ noEdges s.pins (sendByteEvents s.params.tD v)

/-- R88, R89: RECV_BYTE takes eight samples in input mode, the first of them bit 7 of RXDATA; its switch back to output mode is
no edge. -/
def Obligations.RecvByteEffect : Prop :=
  SpelledOnlyBy .recvByte 0x23000000 ∧ RefusedBeforeInit .recvByte
  ∧ ∀ s : State, s.initDone = true → ∃ t v, exec .recvByte s = .next t
      ∧ t.trace = s.trace ++ recvByteEvents s.params.tD v ∧ (recvByteEvents s.params.tD v).length = 46
      ∧ t.rxData = .val v ∧ t.sclOut = .val false ∧ t.sdaDir = .output ∧ t.result = .ok
      ∧ t.protoViol = (s.protoViol || s.busState == .idle)
      ∧ KeepsAllBut [.trace, .rxData, .sclOut, .sdaDir, .result, .protoViol, .env] s t
      ∧ (s.pins.edgesAlong (recvByteEvents s.params.tD v))[44]? = some [.none]

/-- R89: what SEND_BYTE drives, RECV_BYTE reads back: if the eight samples are the bits SEND_BYTE(v) drives, RXDATA is v. -/
def Obligations.ReceiveInvertsSend : Prop :=
  ∀ (v : Byte) (s : State) (rest : List Bit), s.initDone = true → s.env = msbFirst v ++ rest →
    ∃ t, exec .recvByte s = .next t ∧ t.rxData = .val v ∧ t.env = rest

/-- R90, R91: WAIT_ACK stops at the first low sample or after the budget, and each end has its events and its state. -/
def Obligations.WaitAckEffect : Prop :=
  SpelledOnlyBy .waitAck 0x24000000 ∧ RefusedBeforeInit .waitAck
  ∧ ∀ s : State, s.initDone = true → ∃ t a, exec .waitAck s = .next t
      ∧ AckResult.Possible s.params.ackPollBudget a
      ∧ t.trace = s.trace ++ waitAckEvents s.params.tD s.params.ackPollBudget a
      ∧ t.sdaDir = .output ∧ t.protoViol = (s.protoViol || s.busState == .idle)
      ∧ (a.timedOut = false → t.result = .ok ∧ t.sclOut = .val false ∧ t.sdaOut = s.sdaOut ∧ t.busState = s.busState)
      ∧ (a.timedOut = true → t.result = .ackTimeout ∧ t.sclOut = .val true ∧ t.sdaOut = .val true ∧ t.busState = .idle)
      ∧ KeepsAllBut [.trace, .sdaDir, .sclOut, .sdaOut, .busState, .result, .protoViol, .env] s t

/-- R92: the outcome by the samples the environment gives, with the event and Wait counts, for the spec's budget of 5. -/
def Obligations.WaitAckOutcomeBySamples : Prop :=
  ∀ s : State, s.initDone = true → s.params.ackPollBudget = 5 →
    (∀ (j : Nat) (rest : List Bit), 1 ≤ j → j ≤ 5 → s.env = List.replicate (j - 1) true ++ false :: rest →
      ∃ t es, exec .waitAck s = .next t ∧ t.trace = s.trace ++ es ∧ es.length = 2 * j + 7 ∧ es.countP isWait = j + 3
        ∧ t.result = .ok ∧ t.sclOut = .val false ∧ t.busState = s.busState ∧ t.env = rest)
    ∧ ∀ rest : List Bit, s.env = List.replicate 5 true ++ rest →
      ∃ t es, exec .waitAck s = .next t ∧ t.trace = s.trace ++ es ∧ es.length = 24 ∧ es.countP isWait = 12
        ∧ t.result = .ackTimeout ∧ t.sclOut = .val true ∧ t.busState = .idle ∧ t.env = rest

/-- R93, R133: a timed-out Wait-Ack after a byte that ended in 0 puts a start edge (the restore, event 15) and then a stop edge
(event 23) on the wire. -/
def Obligations.TimeoutRestoreIsAStartEdge : Prop :=
  ∀ (s : State) (rest : List Bit), s.initDone = true → s.params.ackPollBudget = 5 → s.sdaOut = .val false →
    s.env = List.replicate 5 true ++ rest →
    ∃ t es, exec .waitAck s = .next t ∧ t.trace = s.trace ++ es
      ∧ (s.pins.edgesAlong es)[14]? = some [.start] ∧ (s.pins.edgesAlong es)[22]? = some [.stop]

/-- R94: SEND_ACK. -/
def Obligations.SendAckEffect : Prop :=
  SpelledOnlyBy .sendAck 0x25000000 ∧ RefusedBeforeInit .sendAck
  ∧ ∀ s : State, s.initDone = true → ∃ t, exec .sendAck s = .next t
      ∧ t.trace = s.trace ++ sendAckEvents s.params.tD
      ∧ t.sdaOut = .val false ∧ t.sclOut = .val false ∧ t.result = .ok
      ∧ t.protoViol = (s.protoViol || s.busState == .idle || s.sdaDir == .input)
      ∧ KeepsAllBut [.trace, .sdaOut, .sclOut, .result, .protoViol] s t
      ∧ (s.sdaDir = .output → s.sclOut = .val true → s.sdaOut = .val true →
          (s.pins.edgesAlong (sendAckEvents s.params.tD))[0]? = some [.start])

/-- R95: SEND_NACK. -/
def Obligations.SendNackEffect : Prop :=
  SpelledOnlyBy .sendNack 0x26000000 ∧ RefusedBeforeInit .sendNack
  ∧ ∀ s : State, s.initDone = true → ∃ t, exec .sendNack s = .next t
      ∧ t.trace = s.trace ++ sendNackEvents s.params.tD
      ∧ t.sdaOut = .val true ∧ t.sclOut = .val false ∧ t.result = .ok
      ∧ t.protoViol = (s.protoViol || s.busState == .idle || s.sdaDir == .input)
      ∧ KeepsAllBut [.trace, .sdaOut, .sclOut, .result, .protoViol] s t
      ∧ (s.sdaDir = .output → s.sclOut = .val true → s.sdaOut = .val false →
          (s.pins.edgesAlong (sendNackEvents s.params.tD))[0]? = some [.stop])

/-- The row of the table of R96 for a run of events: events, Drv, Cfg, Smp and Wait counts. -/
def HasCounts (es : List PinEvent) (events drv cfg smp waits : Nat) : Prop :=
  es.length = events ∧ es.countP isDrv = drv ∧ es.countP isCfg = cfg ∧ (samplesOf es).length = smp
    ∧ es.countP isWait = waits

/-- R96: the event counts of every primitive, for the spec's budget of 5; none takes more than 50 events. -/
def Obligations.PrimitiveEventCounts : Prop :=
  ∀ s : State, s.initDone = true → s.params.ackPollBudget = 5 →
    (∃ t es, exec .start s = .next t ∧ t.trace = s.trace ++ es ∧ HasCounts es 8 4 0 0 4)
    ∧ (∃ t es, exec .stop s = .next t ∧ t.trace = s.trace ++ es ∧ HasCounts es 8 4 0 0 4)
    ∧ (∀ v, ∃ t es, exec (.sendByte v) s = .next t ∧ t.trace = s.trace ++ es ∧ HasCounts es 50 25 0 0 25)
    ∧ (∃ t es, exec .recvByte s = .next t ∧ t.trace = s.trace ++ es ∧ HasCounts es 46 17 2 8 19)
    ∧ (∃ t es, exec .waitAck s = .next t ∧ t.trace = s.trace ++ es
        ∧ (t.result = .ok → ∃ j, 1 ≤ j ∧ j ≤ 5 ∧ HasCounts es (2 * j + 7) 2 2 j (j + 3))
        ∧ (t.result = .ackTimeout → HasCounts es 24 5 2 5 12))
    ∧ (∃ t es, exec .sendAck s = .next t ∧ t.trace = s.trace ++ es ∧ HasCounts es 6 3 0 0 3)
    ∧ (∃ t es, exec .sendNack s = .next t ∧ t.trace = s.trace ++ es ∧ HasCounts es 6 3 0 0 3)

/-! ### Transactions -/

/-- The end of a transaction whose checked address phase timed out (R97): the abort's events, `RESULT = ACK_TIMEOUT`,
IGN_NACK 0, nothing received or read. -/
def AbortsFrom (dev : DevAddr) (s t : State) : Prop :=
  t.trace = s.trace ++ abortedEvents s.params dev ∧ t.result = .ackTimeout ∧ t.ignNack = false
    ∧ t.protoViol = (s.protoViol || s.sdaDir == .input)
    ∧ KeepsAllBut [.trace, .result, .ignNack, .protoViol, .busState, .sclOut, .sdaOut, .sdaDir, .env] s t

/-- R97 to R100: WRITE_ONE, by the results of its Wait-Acks. PROTO_VIOL is also set where START finds SDA in input mode (R27; the
model's reading, log 11). -/
def Obligations.WriteOneEffect : Prop :=
  ∀ (dev : DevAddr) (reg val : Byte), RefusedBeforeInit (.writeOne dev reg val) ∧
    ∀ s : State, s.initDone = true → ∃ t, exec (.writeOne dev reg val) s = .next t ∧ BusIdle t ∧
      (AbortsFrom dev s t ∨
        ∃ a₁ a₂ a₃, a₁.timedOut = false
          ∧ (∀ a ∈ [a₁, a₂, a₃], AckResult.Possible s.params.ackPollBudget a)
          ∧ t.trace = s.trace ++ startEvents s.params.tD
              ++ sentEvents s.params.tD s.params.ackPollBudget (addrByte dev false) a₁
              ++ sentEvents s.params.tD s.params.ackPollBudget reg a₂
              ++ sentEvents s.params.tD s.params.ackPollBudget val a₃ ++ stopEvents s.params.tD
          ∧ t.result = .ok ∧ t.ignNack = (a₂.timedOut || a₃.timedOut)
          ∧ t.protoViol = (s.protoViol || s.sdaDir == .input || a₂.timedOut)
          ∧ KeepsAllBut [.trace, .result, .ignNack, .protoViol, .busState, .sclOut, .sdaOut, .sdaDir, .env] s t)

/-- How many bytes of BUF below the index have never been written. -/
def unwrittenBelow (m : List Host.Cell) (n : Nat) : Nat := ((List.range n).filter fun i => bufGet m i = .unspec).length

/-- R101, R102: WRITE_MULTI sends BUF[0..n-1] in index order, each byte never written as a draw of its own, and does not write
BUF. PROTO_VIOL with SDA in input mode: log 11. -/
def Obligations.WriteMultiEffect : Prop :=
  ∀ (dev : DevAddr) (reg n : Byte), RefusedBeforeInit (.writeMulti dev reg n) ∧
    ∀ s : State, s.initDone = true → ∃ t, exec (.writeMulti dev reg n) s = .next t ∧ BusIdle t ∧
      (AbortsFrom dev s t ∨
        ∃ a₁ a₂, ∃ sent : List (Byte × AckResult), a₁.timedOut = false ∧ sent.length = n.toNat
          ∧ AckResult.Possible s.params.ackPollBudget a₁ ∧ AckResult.Possible s.params.ackPollBudget a₂
          ∧ (∀ x ∈ sent, AckResult.Possible s.params.ackPollBudget x.2)
          ∧ (∀ i v a, sent[i]? = some (v, a) →
              (∀ u, bufGet s.buf i = .val u → v = u)
              ∧ (bufGet s.buf i = .unspec → v = s.byteDraw (s.draws + unwrittenBelow s.buf i)))
          ∧ t.draws = s.draws + unwrittenBelow s.buf n.toNat
          ∧ t.trace = s.trace ++ startEvents s.params.tD
              ++ sentEvents s.params.tD s.params.ackPollBudget (addrByte dev false) a₁
              ++ sentEvents s.params.tD s.params.ackPollBudget reg a₂
              ++ writeDataEvents s.params.tD s.params.ackPollBudget sent ++ stopEvents s.params.tD
          ∧ t.result = .ok ∧ t.ignNack = (a₂ :: sent.map Prod.snd).any AckResult.timedOut
          ∧ t.protoViol = (s.protoViol || s.sdaDir == .input || (a₂ :: sent.map Prod.snd).dropLast.any AckResult.timedOut)
          ∧ KeepsAllBut [.trace, .result, .ignNack, .protoViol, .busState, .sclOut, .sdaOut, .sdaDir, .env, .draws] s t)

/-- R103, R104: READ_ONE never branches and never reports a timeout; RXDATA holds the byte received. PROTO_VIOL with SDA in input
mode: log 11. -/
def Obligations.ReadOneEffect : Prop :=
  ∀ (dev : DevAddr) (reg : Byte), RefusedBeforeInit (.readOne dev reg) ∧
    ∀ s : State, s.initDone = true → ∃ t, exec (.readOne dev reg) s = .next t ∧ BusIdle t ∧
      ∃ a₁ a₂ a₃ v, (∀ a ∈ [a₁, a₂, a₃], AckResult.Possible s.params.ackPollBudget a)
        ∧ t.trace = s.trace ++ startEvents s.params.tD
            ++ sentEvents s.params.tD s.params.ackPollBudget (addrByte dev false) a₁
            ++ sentEvents s.params.tD s.params.ackPollBudget reg a₂ ++ startEvents s.params.tD
            ++ sentEvents s.params.tD s.params.ackPollBudget (addrByte dev true) a₃
            ++ recvByteEvents s.params.tD v ++ sendNackEvents s.params.tD ++ stopEvents s.params.tD
        ∧ t.rxData = .val v ∧ t.result = .ok ∧ t.ignNack = (a₁.timedOut || a₂.timedOut || a₃.timedOut)
        ∧ t.protoViol = (s.protoViol || s.sdaDir == .input || a₁.timedOut || a₃.timedOut)
        ∧ KeepsAllBut [.trace, .rxData, .result, .ignNack, .protoViol, .busState, .sclOut, .sdaOut, .sdaDir, .env] s t

/-- R105, R106: READ_MULTI receives n bytes into BUF[0..n-1], acknowledging every one but the last; the rest of BUF is
unchanged; RXDATA holds the last byte. PROTO_VIOL with SDA in input mode: log 11. -/
def Obligations.ReadMultiEffect : Prop :=
  ∀ (dev : DevAddr) (reg n : Byte), n ≠ 0 → RefusedBeforeInit (.readMulti dev reg n) ∧
    ∀ s : State, s.initDone = true → ∃ t, exec (.readMulti dev reg n) s = .next t ∧ BusIdle t ∧
      (AbortsFrom dev s t ∨
        ∃ a₁ a₂ a₃, ∃ received : List Byte, a₁.timedOut = false
          ∧ (∀ a ∈ [a₁, a₂, a₃], AckResult.Possible s.params.ackPollBudget a)
          ∧ received.length = n.toNat
          ∧ t.trace = s.trace ++ startEvents s.params.tD
              ++ sentEvents s.params.tD s.params.ackPollBudget (addrByte dev false) a₁
              ++ sentEvents s.params.tD s.params.ackPollBudget reg a₂ ++ startEvents s.params.tD
              ++ sentEvents s.params.tD s.params.ackPollBudget (addrByte dev true) a₃
              ++ readDataEvents s.params.tD received ++ stopEvents s.params.tD
          ∧ (∀ i v, received[i]? = some v → bufGet t.buf i = .val v)
          ∧ (∀ i, n.toNat ≤ i → bufGet t.buf i = bufGet s.buf i)
          ∧ (∀ v, received.getLast? = some v → t.rxData = .val v)
          ∧ t.result = .ok ∧ t.ignNack = (a₂.timedOut || a₃.timedOut)
          ∧ t.protoViol = (s.protoViol || s.sdaDir == .input || a₃.timedOut)
          ∧ KeepsAllBut [.trace, .rxData, .buf, .result, .ignNack, .protoViol, .busState, .sclOut, .sdaOut, .sdaDir, .env] s t)

/-- R138: event and Wait counts of the transactions with every acknowledge at its first sample, whatever the data samples of a
read are, and of any address-phase abort (with `ABORT_STOP2`). -/
def Obligations.TransactionTimings : Prop :=
  ∀ (dev : DevAddr) (reg val : Byte) (s : State) (rest : List Bit), s.initDone = true → s.params.ackPollBudget = 5 →
    s.params.abortStop2 = true →
    (s.env = List.replicate 3 false ++ rest →
      (∃ t es, exec (.writeOne dev reg val) s = .next t ∧ t.trace = s.trace ++ es ∧ es.length = 193 ∧ es.countP isWait = 95)
      ∧ (∃ t es, exec (.readOne dev reg) s = .next t ∧ t.trace = s.trace ++ es ∧ es.length = 253 ∧ es.countP isWait = 121)
      ∧ (val ≠ 0 → ∃ t es, exec (.readMulti dev reg val) s = .next t ∧ t.trace = s.trace ++ es
          ∧ es.length = 201 + 52 * val.toNat ∧ es.countP isWait = 99 + 22 * val.toNat))
    ∧ (s.env = List.replicate (2 + val.toNat) false ++ rest →
      ∃ t es, exec (.writeMulti dev reg val) s = .next t ∧ t.trace = s.trace ++ es
        ∧ es.length = 134 + 59 * val.toNat ∧ es.countP isWait = 66 + 29 * val.toNat)
    ∧ (s.env = List.replicate 5 true ++ rest → ∀ c ∈ [Instr.writeOne dev reg val, .writeMulti dev reg val,
        .readMulti dev reg val], c.WellFormed →
        ∃ t es, exec c s = .next t ∧ t.trace = s.trace ++ es ∧ es.length = 90 ∧ es.countP isWait = 45
          ∧ t.result = .ackTimeout)

/-- R107 (a): every transaction, whether it succeeds or aborts, leaves the bus idle, so a subsequent one can proceed; with the
spec's `ABORT_STOP2` its last events are a STOP. -/
def Obligations.TransactionsLeaveTheBusIdle : Prop :=
  ∀ (i : Instr) (s : State), isTransaction i = true → i.WellFormed → s.initDone = true →
    ∃ t es, exec i s = .next t ∧ BusIdle t ∧ t.trace = s.trace ++ es ++ stopEvents s.params.tD

/-- §8 of the source as 95_test_vectors.md E2 and E7 give it: on a device that acknowledges everything and answers with the
value written, WRITE_ONE and then READ_ONE return that value. -/
def Obligations.WriteThenReadOnEchoingDevice : Prop :=
  ∀ (dev : DevAddr) (reg v : Byte) (s : State) (rest : List Bit), s.initDone = true → 1 ≤ s.params.ackPollBudget →
    s.env = List.replicate 6 false ++ msbFirst v ++ rest →
    ∃ t u, exec (.writeOne dev reg v) s = .next t ∧ t.result = .ok
      ∧ exec (.readOne dev reg) t = .next u ∧ u.rxData = .val v ∧ u.result = .ok ∧ u.ignNack = false ∧ u.env = rest

/-! ### Rules of the whole machine -/

/-- R96, R107 (b), R126: every command ends, in any state, within 19027 events, and every one but a transaction within 50. -/
def Obligations.EveryCommandEnds : Prop :=
  ∀ (i : Instr) (s : State), s.params.ackPollBudget = 5 →
    ∃ t, exec i s = .next t ∧ t.trace.length ≤ s.trace.length + (if isTransaction i then 19027 else 50)

/-- R32, R33: a command's samples are the environment's answers in order, each recorded in the trace; past the answers the
state holds, the answer is `env_sda` of the trace so far on the instance's own bus. -/
def Obligations.SamplesAreTheEnvironmentsAnswers : Prop :=
  ∀ (i : Instr) (s t : State), exec i s = .next t →
    ∃ es, t.trace = s.trace ++ es ∧ t.env = s.env.drop (samplesOf es).length
      ∧ ∀ pre b post, es = pre ++ .smp b :: post →
          (∀ a, s.env[(samplesOf pre).length]? = some a → b = a)
          ∧ (s.env[(samplesOf pre).length]? = none → b = s.busAnswer (s.trace ++ pre))

/-- R82: in a primitive or a transaction every `Drv` and `Cfg` is followed by exactly one `Wait(T_D)`, a high sample may be, and
no other `Wait` occurs; INIT and the pin-level commands place none (R73, R79). -/
def Obligations.DelaysStandAfterEveryEdge : Prop :=
  ∀ (i : Instr) (s t : State), exec i s = .next t →
    ∃ es, t.trace = s.trace ++ es
      ∧ (isPinLevel i = false → delaysPlaced s.params.tD es = true)
      ∧ (isPinLevel i = true → ∀ e ∈ es, isWait e = false)

/-- R30, R31, R113, R27: no step clears a fault bit, PROTO_VIOL or INIT_DONE. -/
def Obligations.StickyBitsStay : Prop :=
  ∀ s t : State, step s = .next t →
    (s.fIllegal = true → t.fIllegal = true) ∧ (s.fRdOut = true → t.fRdOut = true) ∧ (s.fNoInit = true → t.fNoInit = true)
    ∧ (s.fReinit = true → t.fReinit = true) ∧ (s.protoViol = true → t.protoViol = true)
    ∧ (s.initDone = true → t.initDone = true)

/-- R33: a step only appends to the trace; and a step that takes up anything but a command appends nothing. -/
def Obligations.TraceOnlyGrows : Prop :=
  ∀ s t : State, step s = .next t →
    s.trace <+: t.trace ∧ ((∀ w rest, s.pending ≠ .write .word 0x000 w :: rest) → t.trace = s.trace)

/-- R17: an instance's parameters never change, and after INIT neither does the clock pin's mode (R19). -/
def Obligations.ConfigurationNeverChanges : Prop :=
  ∀ s t : State, step s = .next t → t.params = s.params ∧ (s.initDone = true → t.sclCfg = s.sclCfg)

/-- R20: with SDA in output mode before a command other than SET_DIR in, it is in output mode after it. -/
def Obligations.CommandsReturnSdaToOutput : Prop :=
  ∀ (i : Instr) (s t : State), i ≠ .setDir false → s.sdaDir = .output → exec i s = .next t → t.sdaDir = .output

/-- The two states agree on everything but BUS_STATE, RESULT, IGN_NACK, PROTO_VIOL, SAMPLE and RXDATA. -/
def AgreeOnPins (s s' : State) : Prop :=
  s' = { s with busState := s'.busState, result := s'.result, ignNack := s'.ignNack, protoViol := s'.protoViol,
                sample := s'.sample, rxData := s'.rxData }

/-- R24 to R29, and the expansions R99, R101, R103 and R105: no command reads BUS_STATE, RESULT, IGN_NACK, PROTO_VIOL, SAMPLE or
RXDATA to decide what to emit: from two states that differ only in those, it emits the same events and ends in states that differ
only in those. That the two runs of a WRITE_MULTI send the same byte where BUF was never written is the model's choice, not the
spec's: both states have the same draw counter, and equal draw numbers give equal values (log 1), where R11 puts a draw under no
law. -/
def Obligations.StatusDoesNotSteerThePins : Prop :=
  ∀ (i : Instr) (s s' t t' : State), AgreeOnPins s s' → exec i s = .next t → exec i s' = .next t' →
    t'.trace = t.trace ∧ AgreeOnPins t t'

/-- R82, R136: any delay, a whole number of units in this model (log 20), gives the same state, and the same trace apart from the
`d` of each `Wait` (for the spec's budget, from a state that holds the environment's answers for the whole command). That the two
runs of a WRITE_MULTI send the same byte where BUF was never written is the model's choice, not the spec's: both start with the
same draw counter, and equal draw numbers give equal values (log 1), where R11 puts a draw under no law. -/
def Obligations.DelayChangesOnlyTheWaits : Prop :=
  ∀ (i : Instr) (s : State) (d : Nat), s.params.ackPollBudget = 5 → 2055 ≤ s.env.length →
    ∃ t t' es es', exec i s = .next t ∧ exec i { s with params := { s.params with tD := d } } = .next t'
      ∧ t.trace = s.trace ++ es ∧ t'.trace = s.trace ++ es' ∧ es'.map forgetDelay = es.map forgetDelay
      ∧ t' = { t with params := { t.params with tD := d }, trace := t'.trace }

/-- The invariant holds after power-on reset of any instance. -/
def Obligations.ResetMeetsTheInvariant : Prop :=
  ∀ p : Params, Inv (State.powerOn p)

/-- Every step keeps the invariant: BUF canonical (R41), the pin fields those the trace makes (R74), SDA sampled only in input
mode (R23), nothing on the pins before INIT (R128), the clock pin's mode fixed from INIT on (R19). -/
def Obligations.StepKeepsTheInvariant : Prop :=
  ∀ s t : State, Inv s → step s = .next t → Inv t

/-! ### One pin event at a time, and several instances -/

/-- R12: the events of a command, taken one at a time, make the command: where a whole-access step answers a next state, the
engine's step and then some further events of the same command end in that state with nothing left to run; and where it refuses,
the engine refuses (the placing of each write beside its event is the model's, log 5). -/
def Obligations.EventStepsMakeTheStep : Prop :=
  ∀ s : State, (∀ t, step s = .next t → ∃ e n, Engine.step ⟨s, []⟩ = .next e ∧ e.finish n = ⟨t, []⟩)
    ∧ ∀ r, step s = .refused r → Engine.step ⟨s, []⟩ = .refused r

/-- R12: every step of an engine in the invariant keeps the invariant and issues at most one pin event; a step of a running
command issues exactly one, and so does the step that takes up a command which passes the checks. -/
def Obligations.EachStepIsOnePinEvent : Prop :=
  ∀ e f : Engine, EngineInv e → e.step = .next f → EngineInv f
    ∧ (f.state.trace = e.state.trace ∨ ∃ ev, f.state.trace = e.state.trace ++ [ev])
    ∧ (e.todo ≠ [] → ∃ ev, f.state.trace = e.state.trace ++ [ev])
    ∧ (∀ w rest c, e.todo = [] → e.state.pending = .write .word 0x000 w :: rest → decode w = .command c →
        acceptance c e.state = none → ∃ ev, f.state.trace = e.state.trace ++ [ev])

/-- R47: while a command runs, the engine takes up no host access. -/
def Obligations.NoHostAccessWhileRunning : Prop :=
  ∀ e : Engine, e.todo ≠ [] → ∃ f, e.step = .next f ∧ f.state.pending = e.state.pending ∧ f.state.replies = e.state.replies
    ∧ f.state.params = e.state.params

/-- R122: a step of one instance, be it one pin event in the middle of a command, leaves every other instance as it is, and is
that instance's own step (the platform's step is the model's, log 12). -/
def Obligations.InstancesShareNothing : Prop :=
  ∀ (p q : Platform) (scl sda : PinId), p.step scl sda = .next q →
    q.buses.length = p.buses.length
    ∧ (∀ (k : Nat) (e : Engine), p.buses[k]? = some e → e.boundPins ≠ [scl, sda] → q.buses[k]? = some e)
    ∧ (∀ (k : Nat) (e : Engine), p.buses[k]? = some e → e.boundPins = [scl, sda] →
        ∃ f, e.step = .next f ∧ q.buses[k]? = some f)

/-- R122, R51: steps of two instances commute: which of the two acts first makes no difference, at any two pin events. -/
def Obligations.InstancesInterleaveFreely : Prop :=
  ∀ (p q r : Platform) (scl sda scl' sda' : PinId), [scl, sda] ≠ [scl', sda'] →
    p.step scl sda = .next q → q.step scl' sda' = .next r →
    ∃ q', p.step scl' sda' = .next q' ∧ q'.step scl sda = .next r

/-- R17: a configuration in which two instances name the same pin is refused. -/
def Obligations.SharedPinIsRefused : Prop :=
  ∀ (p : Platform) (scl sda : PinId) (j k : Nat) (e f : Engine) (pin : PinId), j < k →
    p.buses[j]? = some e → p.buses[k]? = some f → pin ∈ e.boundPins → pin ∈ f.boundPins →
    p.step scl sda = .refused .pinAliasing
end

