-- ==== Sys2Proof/Laws/State.lean ====
section
/-! SUPPORT. What each update of the state does to each field: one lemma per field per update. -/

namespace Sys2Proof.Machine

/-! ### Edges are drives and direction changes followed by a delay (41_primitives.md R82) -/

@[simp] theorem State.sclEdge_eq (s : State) (l : Bit) : s.sclEdge l = (s.drvScl l).wait := rfl

@[simp] theorem State.sdaEdge_eq (s : State) (l : Bit) : s.sdaEdge l = (s.drvSda l).wait := rfl

@[simp] theorem State.sdaToOutput_eq (s : State) : s.sdaToOutput = s.cfgSdaOut.wait := rfl

@[simp] theorem State.sdaToInput_eq (s : State) : s.sdaToInput = s.cfgSdaIn.wait := rfl

@[simp] theorem State.smp_eq (s : State) : s.smp = (s.envAnswer, s.afterSmp) := rfl

/-! ### cfgScl -/

@[simp] theorem State.cfgScl_params (s : State) : (s.cfgScl).params = s.params := rfl

@[simp] theorem State.cfgScl_initDone (s : State) : (s.cfgScl).initDone = s.initDone := rfl

@[simp] theorem State.cfgScl_sdaDir (s : State) : (s.cfgScl).sdaDir = s.sdaDir := rfl

@[simp] theorem State.cfgScl_sclOut (s : State) : (s.cfgScl).sclOut = s.sclOut := rfl

@[simp] theorem State.cfgScl_sdaOut (s : State) : (s.cfgScl).sdaOut = s.sdaOut := rfl

@[simp] theorem State.cfgScl_busState (s : State) : (s.cfgScl).busState = s.busState := rfl

@[simp] theorem State.cfgScl_result (s : State) : (s.cfgScl).result = s.result := rfl

@[simp] theorem State.cfgScl_ignNack (s : State) : (s.cfgScl).ignNack = s.ignNack := rfl

@[simp] theorem State.cfgScl_protoViol (s : State) : (s.cfgScl).protoViol = s.protoViol := rfl

@[simp] theorem State.cfgScl_sample (s : State) : (s.cfgScl).sample = s.sample := rfl

@[simp] theorem State.cfgScl_rxData (s : State) : (s.cfgScl).rxData = s.rxData := rfl

@[simp] theorem State.cfgScl_fIllegal (s : State) : (s.cfgScl).fIllegal = s.fIllegal := rfl

@[simp] theorem State.cfgScl_fRdOut (s : State) : (s.cfgScl).fRdOut = s.fRdOut := rfl

@[simp] theorem State.cfgScl_fNoInit (s : State) : (s.cfgScl).fNoInit = s.fNoInit := rfl

@[simp] theorem State.cfgScl_fReinit (s : State) : (s.cfgScl).fReinit = s.fReinit := rfl

@[simp] theorem State.cfgScl_buf (s : State) : (s.cfgScl).buf = s.buf := rfl

@[simp] theorem State.cfgScl_trace (s : State) : (s.cfgScl).trace = s.trace ++ [.cfg .scl s.params.sclMode.pinMode] := rfl

@[simp] theorem State.cfgScl_env (s : State) : (s.cfgScl).env = s.env := rfl

@[simp] theorem State.cfgScl_draws (s : State) : (s.cfgScl).draws = s.draws := rfl

@[simp] theorem State.cfgScl_pending (s : State) : (s.cfgScl).pending = s.pending := rfl

@[simp] theorem State.cfgScl_replies (s : State) : (s.cfgScl).replies = s.replies := rfl

/-! ### cfgSdaOut -/

@[simp] theorem State.cfgSdaOut_params (s : State) : (s.cfgSdaOut).params = s.params := rfl

@[simp] theorem State.cfgSdaOut_initDone (s : State) : (s.cfgSdaOut).initDone = s.initDone := rfl

@[simp] theorem State.cfgSdaOut_sclCfg (s : State) : (s.cfgSdaOut).sclCfg = s.sclCfg := rfl

@[simp] theorem State.cfgSdaOut_sdaDir (s : State) : (s.cfgSdaOut).sdaDir = .output := rfl

@[simp] theorem State.cfgSdaOut_sclOut (s : State) : (s.cfgSdaOut).sclOut = s.sclOut := rfl

@[simp] theorem State.cfgSdaOut_sdaOut (s : State) : (s.cfgSdaOut).sdaOut = s.sdaOut := rfl

@[simp] theorem State.cfgSdaOut_busState (s : State) : (s.cfgSdaOut).busState = s.busState := rfl

@[simp] theorem State.cfgSdaOut_result (s : State) : (s.cfgSdaOut).result = s.result := rfl

@[simp] theorem State.cfgSdaOut_ignNack (s : State) : (s.cfgSdaOut).ignNack = s.ignNack := rfl

@[simp] theorem State.cfgSdaOut_protoViol (s : State) : (s.cfgSdaOut).protoViol = s.protoViol := rfl

@[simp] theorem State.cfgSdaOut_sample (s : State) : (s.cfgSdaOut).sample = s.sample := rfl

@[simp] theorem State.cfgSdaOut_rxData (s : State) : (s.cfgSdaOut).rxData = s.rxData := rfl

@[simp] theorem State.cfgSdaOut_fIllegal (s : State) : (s.cfgSdaOut).fIllegal = s.fIllegal := rfl

@[simp] theorem State.cfgSdaOut_fRdOut (s : State) : (s.cfgSdaOut).fRdOut = s.fRdOut := rfl

@[simp] theorem State.cfgSdaOut_fNoInit (s : State) : (s.cfgSdaOut).fNoInit = s.fNoInit := rfl

@[simp] theorem State.cfgSdaOut_fReinit (s : State) : (s.cfgSdaOut).fReinit = s.fReinit := rfl

@[simp] theorem State.cfgSdaOut_buf (s : State) : (s.cfgSdaOut).buf = s.buf := rfl

@[simp] theorem State.cfgSdaOut_trace (s : State) : (s.cfgSdaOut).trace = s.trace ++ [.cfg .sda .od] := rfl

@[simp] theorem State.cfgSdaOut_env (s : State) : (s.cfgSdaOut).env = s.env := rfl

@[simp] theorem State.cfgSdaOut_draws (s : State) : (s.cfgSdaOut).draws = s.draws := rfl

@[simp] theorem State.cfgSdaOut_pending (s : State) : (s.cfgSdaOut).pending = s.pending := rfl

@[simp] theorem State.cfgSdaOut_replies (s : State) : (s.cfgSdaOut).replies = s.replies := rfl

/-! ### cfgSdaIn -/

@[simp] theorem State.cfgSdaIn_params (s : State) : (s.cfgSdaIn).params = s.params := rfl

@[simp] theorem State.cfgSdaIn_initDone (s : State) : (s.cfgSdaIn).initDone = s.initDone := rfl

@[simp] theorem State.cfgSdaIn_sclCfg (s : State) : (s.cfgSdaIn).sclCfg = s.sclCfg := rfl

@[simp] theorem State.cfgSdaIn_sdaDir (s : State) : (s.cfgSdaIn).sdaDir = .input := rfl

@[simp] theorem State.cfgSdaIn_sclOut (s : State) : (s.cfgSdaIn).sclOut = s.sclOut := rfl

@[simp] theorem State.cfgSdaIn_sdaOut (s : State) : (s.cfgSdaIn).sdaOut = s.sdaOut := rfl

@[simp] theorem State.cfgSdaIn_busState (s : State) : (s.cfgSdaIn).busState = s.busState := rfl

@[simp] theorem State.cfgSdaIn_result (s : State) : (s.cfgSdaIn).result = s.result := rfl

@[simp] theorem State.cfgSdaIn_ignNack (s : State) : (s.cfgSdaIn).ignNack = s.ignNack := rfl

@[simp] theorem State.cfgSdaIn_protoViol (s : State) : (s.cfgSdaIn).protoViol = s.protoViol := rfl

@[simp] theorem State.cfgSdaIn_sample (s : State) : (s.cfgSdaIn).sample = s.sample := rfl

@[simp] theorem State.cfgSdaIn_rxData (s : State) : (s.cfgSdaIn).rxData = s.rxData := rfl

@[simp] theorem State.cfgSdaIn_fIllegal (s : State) : (s.cfgSdaIn).fIllegal = s.fIllegal := rfl

@[simp] theorem State.cfgSdaIn_fRdOut (s : State) : (s.cfgSdaIn).fRdOut = s.fRdOut := rfl

@[simp] theorem State.cfgSdaIn_fNoInit (s : State) : (s.cfgSdaIn).fNoInit = s.fNoInit := rfl

@[simp] theorem State.cfgSdaIn_fReinit (s : State) : (s.cfgSdaIn).fReinit = s.fReinit := rfl

@[simp] theorem State.cfgSdaIn_buf (s : State) : (s.cfgSdaIn).buf = s.buf := rfl

@[simp] theorem State.cfgSdaIn_trace (s : State) : (s.cfgSdaIn).trace = s.trace ++ [.cfg .sda .ipu] := rfl

@[simp] theorem State.cfgSdaIn_env (s : State) : (s.cfgSdaIn).env = s.env := rfl

@[simp] theorem State.cfgSdaIn_draws (s : State) : (s.cfgSdaIn).draws = s.draws := rfl

@[simp] theorem State.cfgSdaIn_pending (s : State) : (s.cfgSdaIn).pending = s.pending := rfl

@[simp] theorem State.cfgSdaIn_replies (s : State) : (s.cfgSdaIn).replies = s.replies := rfl

/-! ### drvScl -/

@[simp] theorem State.drvScl_params (s : State) (l : Bit) : (s.drvScl l).params = s.params := rfl

@[simp] theorem State.drvScl_initDone (s : State) (l : Bit) : (s.drvScl l).initDone = s.initDone := rfl

@[simp] theorem State.drvScl_sclCfg (s : State) (l : Bit) : (s.drvScl l).sclCfg = s.sclCfg := rfl

@[simp] theorem State.drvScl_sdaDir (s : State) (l : Bit) : (s.drvScl l).sdaDir = s.sdaDir := rfl

@[simp] theorem State.drvScl_sclOut (s : State) (l : Bit) : (s.drvScl l).sclOut = .val l := rfl

@[simp] theorem State.drvScl_sdaOut (s : State) (l : Bit) : (s.drvScl l).sdaOut = s.sdaOut := rfl

@[simp] theorem State.drvScl_busState (s : State) (l : Bit) : (s.drvScl l).busState = s.busState := rfl

@[simp] theorem State.drvScl_result (s : State) (l : Bit) : (s.drvScl l).result = s.result := rfl

@[simp] theorem State.drvScl_ignNack (s : State) (l : Bit) : (s.drvScl l).ignNack = s.ignNack := rfl

@[simp] theorem State.drvScl_protoViol (s : State) (l : Bit) : (s.drvScl l).protoViol = s.protoViol := rfl

@[simp] theorem State.drvScl_sample (s : State) (l : Bit) : (s.drvScl l).sample = s.sample := rfl

@[simp] theorem State.drvScl_rxData (s : State) (l : Bit) : (s.drvScl l).rxData = s.rxData := rfl

@[simp] theorem State.drvScl_fIllegal (s : State) (l : Bit) : (s.drvScl l).fIllegal = s.fIllegal := rfl

@[simp] theorem State.drvScl_fRdOut (s : State) (l : Bit) : (s.drvScl l).fRdOut = s.fRdOut := rfl

@[simp] theorem State.drvScl_fNoInit (s : State) (l : Bit) : (s.drvScl l).fNoInit = s.fNoInit := rfl

@[simp] theorem State.drvScl_fReinit (s : State) (l : Bit) : (s.drvScl l).fReinit = s.fReinit := rfl

@[simp] theorem State.drvScl_buf (s : State) (l : Bit) : (s.drvScl l).buf = s.buf := rfl

@[simp] theorem State.drvScl_trace (s : State) (l : Bit) : (s.drvScl l).trace = s.trace ++ [.drv .scl l] := rfl

@[simp] theorem State.drvScl_env (s : State) (l : Bit) : (s.drvScl l).env = s.env := rfl

@[simp] theorem State.drvScl_draws (s : State) (l : Bit) : (s.drvScl l).draws = s.draws := rfl

@[simp] theorem State.drvScl_pending (s : State) (l : Bit) : (s.drvScl l).pending = s.pending := rfl

@[simp] theorem State.drvScl_replies (s : State) (l : Bit) : (s.drvScl l).replies = s.replies := rfl

/-! ### drvSda -/

@[simp] theorem State.drvSda_params (s : State) (l : Bit) : (s.drvSda l).params = s.params := rfl

@[simp] theorem State.drvSda_initDone (s : State) (l : Bit) : (s.drvSda l).initDone = s.initDone := rfl

@[simp] theorem State.drvSda_sclCfg (s : State) (l : Bit) : (s.drvSda l).sclCfg = s.sclCfg := rfl

@[simp] theorem State.drvSda_sdaDir (s : State) (l : Bit) : (s.drvSda l).sdaDir = s.sdaDir := rfl

@[simp] theorem State.drvSda_sclOut (s : State) (l : Bit) : (s.drvSda l).sclOut = s.sclOut := rfl

@[simp] theorem State.drvSda_sdaOut (s : State) (l : Bit) : (s.drvSda l).sdaOut = .val l := rfl

@[simp] theorem State.drvSda_busState (s : State) (l : Bit) : (s.drvSda l).busState = s.busState := rfl

@[simp] theorem State.drvSda_result (s : State) (l : Bit) : (s.drvSda l).result = s.result := rfl

@[simp] theorem State.drvSda_ignNack (s : State) (l : Bit) : (s.drvSda l).ignNack = s.ignNack := rfl

@[simp] theorem State.drvSda_protoViol (s : State) (l : Bit) : (s.drvSda l).protoViol = s.protoViol := rfl

@[simp] theorem State.drvSda_sample (s : State) (l : Bit) : (s.drvSda l).sample = s.sample := rfl

@[simp] theorem State.drvSda_rxData (s : State) (l : Bit) : (s.drvSda l).rxData = s.rxData := rfl

@[simp] theorem State.drvSda_fIllegal (s : State) (l : Bit) : (s.drvSda l).fIllegal = s.fIllegal := rfl

@[simp] theorem State.drvSda_fRdOut (s : State) (l : Bit) : (s.drvSda l).fRdOut = s.fRdOut := rfl

@[simp] theorem State.drvSda_fNoInit (s : State) (l : Bit) : (s.drvSda l).fNoInit = s.fNoInit := rfl

@[simp] theorem State.drvSda_fReinit (s : State) (l : Bit) : (s.drvSda l).fReinit = s.fReinit := rfl

@[simp] theorem State.drvSda_buf (s : State) (l : Bit) : (s.drvSda l).buf = s.buf := rfl

@[simp] theorem State.drvSda_trace (s : State) (l : Bit) : (s.drvSda l).trace = s.trace ++ [.drv .sda l] := rfl

@[simp] theorem State.drvSda_env (s : State) (l : Bit) : (s.drvSda l).env = s.env := rfl

@[simp] theorem State.drvSda_draws (s : State) (l : Bit) : (s.drvSda l).draws = s.draws := rfl

@[simp] theorem State.drvSda_pending (s : State) (l : Bit) : (s.drvSda l).pending = s.pending := rfl

@[simp] theorem State.drvSda_replies (s : State) (l : Bit) : (s.drvSda l).replies = s.replies := rfl

/-! ### wait -/

@[simp] theorem State.wait_params (s : State) : (s.wait).params = s.params := rfl

@[simp] theorem State.wait_initDone (s : State) : (s.wait).initDone = s.initDone := rfl

@[simp] theorem State.wait_sclCfg (s : State) : (s.wait).sclCfg = s.sclCfg := rfl

@[simp] theorem State.wait_sdaDir (s : State) : (s.wait).sdaDir = s.sdaDir := rfl

@[simp] theorem State.wait_sclOut (s : State) : (s.wait).sclOut = s.sclOut := rfl

@[simp] theorem State.wait_sdaOut (s : State) : (s.wait).sdaOut = s.sdaOut := rfl

@[simp] theorem State.wait_busState (s : State) : (s.wait).busState = s.busState := rfl

@[simp] theorem State.wait_result (s : State) : (s.wait).result = s.result := rfl

@[simp] theorem State.wait_ignNack (s : State) : (s.wait).ignNack = s.ignNack := rfl

@[simp] theorem State.wait_protoViol (s : State) : (s.wait).protoViol = s.protoViol := rfl

@[simp] theorem State.wait_sample (s : State) : (s.wait).sample = s.sample := rfl

@[simp] theorem State.wait_rxData (s : State) : (s.wait).rxData = s.rxData := rfl

@[simp] theorem State.wait_fIllegal (s : State) : (s.wait).fIllegal = s.fIllegal := rfl

@[simp] theorem State.wait_fRdOut (s : State) : (s.wait).fRdOut = s.fRdOut := rfl

@[simp] theorem State.wait_fNoInit (s : State) : (s.wait).fNoInit = s.fNoInit := rfl

@[simp] theorem State.wait_fReinit (s : State) : (s.wait).fReinit = s.fReinit := rfl

@[simp] theorem State.wait_buf (s : State) : (s.wait).buf = s.buf := rfl

@[simp] theorem State.wait_trace (s : State) : (s.wait).trace = s.trace ++ [.wait s.params.tD] := rfl

@[simp] theorem State.wait_env (s : State) : (s.wait).env = s.env := rfl

@[simp] theorem State.wait_draws (s : State) : (s.wait).draws = s.draws := rfl

@[simp] theorem State.wait_pending (s : State) : (s.wait).pending = s.pending := rfl

@[simp] theorem State.wait_replies (s : State) : (s.wait).replies = s.replies := rfl

/-! ### afterSmp -/

@[simp] theorem State.afterSmp_params (s : State) : (s.afterSmp).params = s.params := rfl

@[simp] theorem State.afterSmp_initDone (s : State) : (s.afterSmp).initDone = s.initDone := rfl

@[simp] theorem State.afterSmp_sclCfg (s : State) : (s.afterSmp).sclCfg = s.sclCfg := rfl

@[simp] theorem State.afterSmp_sdaDir (s : State) : (s.afterSmp).sdaDir = s.sdaDir := rfl

@[simp] theorem State.afterSmp_sclOut (s : State) : (s.afterSmp).sclOut = s.sclOut := rfl

@[simp] theorem State.afterSmp_sdaOut (s : State) : (s.afterSmp).sdaOut = s.sdaOut := rfl

@[simp] theorem State.afterSmp_busState (s : State) : (s.afterSmp).busState = s.busState := rfl

@[simp] theorem State.afterSmp_result (s : State) : (s.afterSmp).result = s.result := rfl

@[simp] theorem State.afterSmp_ignNack (s : State) : (s.afterSmp).ignNack = s.ignNack := rfl

@[simp] theorem State.afterSmp_protoViol (s : State) : (s.afterSmp).protoViol = s.protoViol := rfl

@[simp] theorem State.afterSmp_sample (s : State) : (s.afterSmp).sample = s.sample := rfl

@[simp] theorem State.afterSmp_rxData (s : State) : (s.afterSmp).rxData = s.rxData := rfl

@[simp] theorem State.afterSmp_fIllegal (s : State) : (s.afterSmp).fIllegal = s.fIllegal := rfl

@[simp] theorem State.afterSmp_fRdOut (s : State) : (s.afterSmp).fRdOut = s.fRdOut := rfl

@[simp] theorem State.afterSmp_fNoInit (s : State) : (s.afterSmp).fNoInit = s.fNoInit := rfl

@[simp] theorem State.afterSmp_fReinit (s : State) : (s.afterSmp).fReinit = s.fReinit := rfl

@[simp] theorem State.afterSmp_buf (s : State) : (s.afterSmp).buf = s.buf := rfl

@[simp] theorem State.afterSmp_trace (s : State) : (s.afterSmp).trace = s.trace ++ [.smp s.envAnswer] := rfl

@[simp] theorem State.afterSmp_env (s : State) : (s.afterSmp).env = s.env.tail := rfl

@[simp] theorem State.afterSmp_draws (s : State) : (s.afterSmp).draws = s.draws := rfl

@[simp] theorem State.afterSmp_pending (s : State) : (s.afterSmp).pending = s.pending := rfl

@[simp] theorem State.afterSmp_replies (s : State) : (s.afterSmp).replies = s.replies := rfl

/-! ### setInitDone -/

@[simp] theorem State.setInitDone_params (s : State) : (s.setInitDone).params = s.params := rfl

@[simp] theorem State.setInitDone_initDone (s : State) : (s.setInitDone).initDone = true := rfl

@[simp] theorem State.setInitDone_sclCfg (s : State) : (s.setInitDone).sclCfg = s.sclCfg := rfl

@[simp] theorem State.setInitDone_sdaDir (s : State) : (s.setInitDone).sdaDir = s.sdaDir := rfl

@[simp] theorem State.setInitDone_sclOut (s : State) : (s.setInitDone).sclOut = s.sclOut := rfl

@[simp] theorem State.setInitDone_sdaOut (s : State) : (s.setInitDone).sdaOut = s.sdaOut := rfl

@[simp] theorem State.setInitDone_busState (s : State) : (s.setInitDone).busState = s.busState := rfl

@[simp] theorem State.setInitDone_result (s : State) : (s.setInitDone).result = s.result := rfl

@[simp] theorem State.setInitDone_ignNack (s : State) : (s.setInitDone).ignNack = s.ignNack := rfl

@[simp] theorem State.setInitDone_protoViol (s : State) : (s.setInitDone).protoViol = s.protoViol := rfl

@[simp] theorem State.setInitDone_sample (s : State) : (s.setInitDone).sample = s.sample := rfl

@[simp] theorem State.setInitDone_rxData (s : State) : (s.setInitDone).rxData = s.rxData := rfl

@[simp] theorem State.setInitDone_fIllegal (s : State) : (s.setInitDone).fIllegal = s.fIllegal := rfl

@[simp] theorem State.setInitDone_fRdOut (s : State) : (s.setInitDone).fRdOut = s.fRdOut := rfl

@[simp] theorem State.setInitDone_fNoInit (s : State) : (s.setInitDone).fNoInit = s.fNoInit := rfl

@[simp] theorem State.setInitDone_fReinit (s : State) : (s.setInitDone).fReinit = s.fReinit := rfl

@[simp] theorem State.setInitDone_buf (s : State) : (s.setInitDone).buf = s.buf := rfl

@[simp] theorem State.setInitDone_trace (s : State) : (s.setInitDone).trace = s.trace := rfl

@[simp] theorem State.setInitDone_env (s : State) : (s.setInitDone).env = s.env := rfl

@[simp] theorem State.setInitDone_draws (s : State) : (s.setInitDone).draws = s.draws := rfl

@[simp] theorem State.setInitDone_pending (s : State) : (s.setInitDone).pending = s.pending := rfl

@[simp] theorem State.setInitDone_replies (s : State) : (s.setInitDone).replies = s.replies := rfl

/-! ### setBusState -/

@[simp] theorem State.setBusState_params (s : State) (b : BusState) : (s.setBusState b).params = s.params := rfl

@[simp] theorem State.setBusState_initDone (s : State) (b : BusState) : (s.setBusState b).initDone = s.initDone := rfl

@[simp] theorem State.setBusState_sclCfg (s : State) (b : BusState) : (s.setBusState b).sclCfg = s.sclCfg := rfl

@[simp] theorem State.setBusState_sdaDir (s : State) (b : BusState) : (s.setBusState b).sdaDir = s.sdaDir := rfl

@[simp] theorem State.setBusState_sclOut (s : State) (b : BusState) : (s.setBusState b).sclOut = s.sclOut := rfl

@[simp] theorem State.setBusState_sdaOut (s : State) (b : BusState) : (s.setBusState b).sdaOut = s.sdaOut := rfl

@[simp] theorem State.setBusState_busState (s : State) (b : BusState) : (s.setBusState b).busState = b := rfl

@[simp] theorem State.setBusState_result (s : State) (b : BusState) : (s.setBusState b).result = s.result := rfl

@[simp] theorem State.setBusState_ignNack (s : State) (b : BusState) : (s.setBusState b).ignNack = s.ignNack := rfl

@[simp] theorem State.setBusState_protoViol (s : State) (b : BusState) : (s.setBusState b).protoViol = s.protoViol := rfl

@[simp] theorem State.setBusState_sample (s : State) (b : BusState) : (s.setBusState b).sample = s.sample := rfl

@[simp] theorem State.setBusState_rxData (s : State) (b : BusState) : (s.setBusState b).rxData = s.rxData := rfl

@[simp] theorem State.setBusState_fIllegal (s : State) (b : BusState) : (s.setBusState b).fIllegal = s.fIllegal := rfl

@[simp] theorem State.setBusState_fRdOut (s : State) (b : BusState) : (s.setBusState b).fRdOut = s.fRdOut := rfl

@[simp] theorem State.setBusState_fNoInit (s : State) (b : BusState) : (s.setBusState b).fNoInit = s.fNoInit := rfl

@[simp] theorem State.setBusState_fReinit (s : State) (b : BusState) : (s.setBusState b).fReinit = s.fReinit := rfl

@[simp] theorem State.setBusState_buf (s : State) (b : BusState) : (s.setBusState b).buf = s.buf := rfl

@[simp] theorem State.setBusState_trace (s : State) (b : BusState) : (s.setBusState b).trace = s.trace := rfl

@[simp] theorem State.setBusState_env (s : State) (b : BusState) : (s.setBusState b).env = s.env := rfl

@[simp] theorem State.setBusState_draws (s : State) (b : BusState) : (s.setBusState b).draws = s.draws := rfl

@[simp] theorem State.setBusState_pending (s : State) (b : BusState) : (s.setBusState b).pending = s.pending := rfl

@[simp] theorem State.setBusState_replies (s : State) (b : BusState) : (s.setBusState b).replies = s.replies := rfl

/-! ### setResult -/

@[simp] theorem State.setResult_params (s : State) (r : Result) : (s.setResult r).params = s.params := rfl

@[simp] theorem State.setResult_initDone (s : State) (r : Result) : (s.setResult r).initDone = s.initDone := rfl

@[simp] theorem State.setResult_sclCfg (s : State) (r : Result) : (s.setResult r).sclCfg = s.sclCfg := rfl

@[simp] theorem State.setResult_sdaDir (s : State) (r : Result) : (s.setResult r).sdaDir = s.sdaDir := rfl

@[simp] theorem State.setResult_sclOut (s : State) (r : Result) : (s.setResult r).sclOut = s.sclOut := rfl

@[simp] theorem State.setResult_sdaOut (s : State) (r : Result) : (s.setResult r).sdaOut = s.sdaOut := rfl

@[simp] theorem State.setResult_busState (s : State) (r : Result) : (s.setResult r).busState = s.busState := rfl

@[simp] theorem State.setResult_result (s : State) (r : Result) : (s.setResult r).result = r := rfl

@[simp] theorem State.setResult_ignNack (s : State) (r : Result) : (s.setResult r).ignNack = s.ignNack := rfl

@[simp] theorem State.setResult_protoViol (s : State) (r : Result) : (s.setResult r).protoViol = s.protoViol := rfl

@[simp] theorem State.setResult_sample (s : State) (r : Result) : (s.setResult r).sample = s.sample := rfl

@[simp] theorem State.setResult_rxData (s : State) (r : Result) : (s.setResult r).rxData = s.rxData := rfl

@[simp] theorem State.setResult_fIllegal (s : State) (r : Result) : (s.setResult r).fIllegal = s.fIllegal := rfl

@[simp] theorem State.setResult_fRdOut (s : State) (r : Result) : (s.setResult r).fRdOut = s.fRdOut := rfl

@[simp] theorem State.setResult_fNoInit (s : State) (r : Result) : (s.setResult r).fNoInit = s.fNoInit := rfl

@[simp] theorem State.setResult_fReinit (s : State) (r : Result) : (s.setResult r).fReinit = s.fReinit := rfl

@[simp] theorem State.setResult_buf (s : State) (r : Result) : (s.setResult r).buf = s.buf := rfl

@[simp] theorem State.setResult_trace (s : State) (r : Result) : (s.setResult r).trace = s.trace := rfl

@[simp] theorem State.setResult_env (s : State) (r : Result) : (s.setResult r).env = s.env := rfl

@[simp] theorem State.setResult_draws (s : State) (r : Result) : (s.setResult r).draws = s.draws := rfl

@[simp] theorem State.setResult_pending (s : State) (r : Result) : (s.setResult r).pending = s.pending := rfl

@[simp] theorem State.setResult_replies (s : State) (r : Result) : (s.setResult r).replies = s.replies := rfl

/-! ### setIgnNack -/

@[simp] theorem State.setIgnNack_params (s : State) (b : Bit) : (s.setIgnNack b).params = s.params := rfl

@[simp] theorem State.setIgnNack_initDone (s : State) (b : Bit) : (s.setIgnNack b).initDone = s.initDone := rfl

@[simp] theorem State.setIgnNack_sclCfg (s : State) (b : Bit) : (s.setIgnNack b).sclCfg = s.sclCfg := rfl

@[simp] theorem State.setIgnNack_sdaDir (s : State) (b : Bit) : (s.setIgnNack b).sdaDir = s.sdaDir := rfl

@[simp] theorem State.setIgnNack_sclOut (s : State) (b : Bit) : (s.setIgnNack b).sclOut = s.sclOut := rfl

@[simp] theorem State.setIgnNack_sdaOut (s : State) (b : Bit) : (s.setIgnNack b).sdaOut = s.sdaOut := rfl

@[simp] theorem State.setIgnNack_busState (s : State) (b : Bit) : (s.setIgnNack b).busState = s.busState := rfl

@[simp] theorem State.setIgnNack_result (s : State) (b : Bit) : (s.setIgnNack b).result = s.result := rfl

@[simp] theorem State.setIgnNack_ignNack (s : State) (b : Bit) : (s.setIgnNack b).ignNack = b := rfl

@[simp] theorem State.setIgnNack_protoViol (s : State) (b : Bit) : (s.setIgnNack b).protoViol = s.protoViol := rfl

@[simp] theorem State.setIgnNack_sample (s : State) (b : Bit) : (s.setIgnNack b).sample = s.sample := rfl

@[simp] theorem State.setIgnNack_rxData (s : State) (b : Bit) : (s.setIgnNack b).rxData = s.rxData := rfl

@[simp] theorem State.setIgnNack_fIllegal (s : State) (b : Bit) : (s.setIgnNack b).fIllegal = s.fIllegal := rfl

@[simp] theorem State.setIgnNack_fRdOut (s : State) (b : Bit) : (s.setIgnNack b).fRdOut = s.fRdOut := rfl

@[simp] theorem State.setIgnNack_fNoInit (s : State) (b : Bit) : (s.setIgnNack b).fNoInit = s.fNoInit := rfl

@[simp] theorem State.setIgnNack_fReinit (s : State) (b : Bit) : (s.setIgnNack b).fReinit = s.fReinit := rfl

@[simp] theorem State.setIgnNack_buf (s : State) (b : Bit) : (s.setIgnNack b).buf = s.buf := rfl

@[simp] theorem State.setIgnNack_trace (s : State) (b : Bit) : (s.setIgnNack b).trace = s.trace := rfl

@[simp] theorem State.setIgnNack_env (s : State) (b : Bit) : (s.setIgnNack b).env = s.env := rfl

@[simp] theorem State.setIgnNack_draws (s : State) (b : Bit) : (s.setIgnNack b).draws = s.draws := rfl

@[simp] theorem State.setIgnNack_pending (s : State) (b : Bit) : (s.setIgnNack b).pending = s.pending := rfl

@[simp] theorem State.setIgnNack_replies (s : State) (b : Bit) : (s.setIgnNack b).replies = s.replies := rfl

/-! ### setSample -/

@[simp] theorem State.setSample_params (s : State) (b : Bit) : (s.setSample b).params = s.params := rfl

@[simp] theorem State.setSample_initDone (s : State) (b : Bit) : (s.setSample b).initDone = s.initDone := rfl

@[simp] theorem State.setSample_sclCfg (s : State) (b : Bit) : (s.setSample b).sclCfg = s.sclCfg := rfl

@[simp] theorem State.setSample_sdaDir (s : State) (b : Bit) : (s.setSample b).sdaDir = s.sdaDir := rfl

@[simp] theorem State.setSample_sclOut (s : State) (b : Bit) : (s.setSample b).sclOut = s.sclOut := rfl

@[simp] theorem State.setSample_sdaOut (s : State) (b : Bit) : (s.setSample b).sdaOut = s.sdaOut := rfl

@[simp] theorem State.setSample_busState (s : State) (b : Bit) : (s.setSample b).busState = s.busState := rfl

@[simp] theorem State.setSample_result (s : State) (b : Bit) : (s.setSample b).result = s.result := rfl

@[simp] theorem State.setSample_ignNack (s : State) (b : Bit) : (s.setSample b).ignNack = s.ignNack := rfl

@[simp] theorem State.setSample_protoViol (s : State) (b : Bit) : (s.setSample b).protoViol = s.protoViol := rfl

@[simp] theorem State.setSample_sample (s : State) (b : Bit) : (s.setSample b).sample = .val b := rfl

@[simp] theorem State.setSample_rxData (s : State) (b : Bit) : (s.setSample b).rxData = s.rxData := rfl

@[simp] theorem State.setSample_fIllegal (s : State) (b : Bit) : (s.setSample b).fIllegal = s.fIllegal := rfl

@[simp] theorem State.setSample_fRdOut (s : State) (b : Bit) : (s.setSample b).fRdOut = s.fRdOut := rfl

@[simp] theorem State.setSample_fNoInit (s : State) (b : Bit) : (s.setSample b).fNoInit = s.fNoInit := rfl

@[simp] theorem State.setSample_fReinit (s : State) (b : Bit) : (s.setSample b).fReinit = s.fReinit := rfl

@[simp] theorem State.setSample_buf (s : State) (b : Bit) : (s.setSample b).buf = s.buf := rfl

@[simp] theorem State.setSample_trace (s : State) (b : Bit) : (s.setSample b).trace = s.trace := rfl

@[simp] theorem State.setSample_env (s : State) (b : Bit) : (s.setSample b).env = s.env := rfl

@[simp] theorem State.setSample_draws (s : State) (b : Bit) : (s.setSample b).draws = s.draws := rfl

@[simp] theorem State.setSample_pending (s : State) (b : Bit) : (s.setSample b).pending = s.pending := rfl

@[simp] theorem State.setSample_replies (s : State) (b : Bit) : (s.setSample b).replies = s.replies := rfl

/-! ### setRxData -/

@[simp] theorem State.setRxData_params (s : State) (v : Byte) : (s.setRxData v).params = s.params := rfl

@[simp] theorem State.setRxData_initDone (s : State) (v : Byte) : (s.setRxData v).initDone = s.initDone := rfl

@[simp] theorem State.setRxData_sclCfg (s : State) (v : Byte) : (s.setRxData v).sclCfg = s.sclCfg := rfl

@[simp] theorem State.setRxData_sdaDir (s : State) (v : Byte) : (s.setRxData v).sdaDir = s.sdaDir := rfl

@[simp] theorem State.setRxData_sclOut (s : State) (v : Byte) : (s.setRxData v).sclOut = s.sclOut := rfl

@[simp] theorem State.setRxData_sdaOut (s : State) (v : Byte) : (s.setRxData v).sdaOut = s.sdaOut := rfl

@[simp] theorem State.setRxData_busState (s : State) (v : Byte) : (s.setRxData v).busState = s.busState := rfl

@[simp] theorem State.setRxData_result (s : State) (v : Byte) : (s.setRxData v).result = s.result := rfl

@[simp] theorem State.setRxData_ignNack (s : State) (v : Byte) : (s.setRxData v).ignNack = s.ignNack := rfl

@[simp] theorem State.setRxData_protoViol (s : State) (v : Byte) : (s.setRxData v).protoViol = s.protoViol := rfl

@[simp] theorem State.setRxData_sample (s : State) (v : Byte) : (s.setRxData v).sample = s.sample := rfl

@[simp] theorem State.setRxData_rxData (s : State) (v : Byte) : (s.setRxData v).rxData = .val v := rfl

@[simp] theorem State.setRxData_fIllegal (s : State) (v : Byte) : (s.setRxData v).fIllegal = s.fIllegal := rfl

@[simp] theorem State.setRxData_fRdOut (s : State) (v : Byte) : (s.setRxData v).fRdOut = s.fRdOut := rfl

@[simp] theorem State.setRxData_fNoInit (s : State) (v : Byte) : (s.setRxData v).fNoInit = s.fNoInit := rfl

@[simp] theorem State.setRxData_fReinit (s : State) (v : Byte) : (s.setRxData v).fReinit = s.fReinit := rfl

@[simp] theorem State.setRxData_buf (s : State) (v : Byte) : (s.setRxData v).buf = s.buf := rfl

@[simp] theorem State.setRxData_trace (s : State) (v : Byte) : (s.setRxData v).trace = s.trace := rfl

@[simp] theorem State.setRxData_env (s : State) (v : Byte) : (s.setRxData v).env = s.env := rfl

@[simp] theorem State.setRxData_draws (s : State) (v : Byte) : (s.setRxData v).draws = s.draws := rfl

@[simp] theorem State.setRxData_pending (s : State) (v : Byte) : (s.setRxData v).pending = s.pending := rfl

@[simp] theorem State.setRxData_replies (s : State) (v : Byte) : (s.setRxData v).replies = s.replies := rfl

/-! ### checkProto -/

@[simp] theorem State.checkProto_params (s : State) (p : Prim) : (s.checkProto p).params = s.params := rfl

@[simp] theorem State.checkProto_initDone (s : State) (p : Prim) : (s.checkProto p).initDone = s.initDone := rfl

@[simp] theorem State.checkProto_sclCfg (s : State) (p : Prim) : (s.checkProto p).sclCfg = s.sclCfg := rfl

@[simp] theorem State.checkProto_sdaDir (s : State) (p : Prim) : (s.checkProto p).sdaDir = s.sdaDir := rfl

@[simp] theorem State.checkProto_sclOut (s : State) (p : Prim) : (s.checkProto p).sclOut = s.sclOut := rfl

@[simp] theorem State.checkProto_sdaOut (s : State) (p : Prim) : (s.checkProto p).sdaOut = s.sdaOut := rfl

@[simp] theorem State.checkProto_busState (s : State) (p : Prim) : (s.checkProto p).busState = s.busState := rfl

@[simp] theorem State.checkProto_result (s : State) (p : Prim) : (s.checkProto p).result = s.result := rfl

@[simp] theorem State.checkProto_ignNack (s : State) (p : Prim) : (s.checkProto p).ignNack = s.ignNack := rfl

@[simp] theorem State.checkProto_protoViol (s : State) (p : Prim) : (s.checkProto p).protoViol = (s.protoViol || violates p s) := rfl

@[simp] theorem State.checkProto_sample (s : State) (p : Prim) : (s.checkProto p).sample = s.sample := rfl

@[simp] theorem State.checkProto_rxData (s : State) (p : Prim) : (s.checkProto p).rxData = s.rxData := rfl

@[simp] theorem State.checkProto_fIllegal (s : State) (p : Prim) : (s.checkProto p).fIllegal = s.fIllegal := rfl

@[simp] theorem State.checkProto_fRdOut (s : State) (p : Prim) : (s.checkProto p).fRdOut = s.fRdOut := rfl

@[simp] theorem State.checkProto_fNoInit (s : State) (p : Prim) : (s.checkProto p).fNoInit = s.fNoInit := rfl

@[simp] theorem State.checkProto_fReinit (s : State) (p : Prim) : (s.checkProto p).fReinit = s.fReinit := rfl

@[simp] theorem State.checkProto_buf (s : State) (p : Prim) : (s.checkProto p).buf = s.buf := rfl

@[simp] theorem State.checkProto_trace (s : State) (p : Prim) : (s.checkProto p).trace = s.trace := rfl

@[simp] theorem State.checkProto_env (s : State) (p : Prim) : (s.checkProto p).env = s.env := rfl

@[simp] theorem State.checkProto_draws (s : State) (p : Prim) : (s.checkProto p).draws = s.draws := rfl

@[simp] theorem State.checkProto_pending (s : State) (p : Prim) : (s.checkProto p).pending = s.pending := rfl

@[simp] theorem State.checkProto_replies (s : State) (p : Prim) : (s.checkProto p).replies = s.replies := rfl

/-! ### memWrite -/

@[simp] theorem State.memWrite_params (s : State) (i v : Byte) : (s.memWrite i v).params = s.params := rfl

@[simp] theorem State.memWrite_initDone (s : State) (i v : Byte) : (s.memWrite i v).initDone = s.initDone := rfl

@[simp] theorem State.memWrite_sclCfg (s : State) (i v : Byte) : (s.memWrite i v).sclCfg = s.sclCfg := rfl

@[simp] theorem State.memWrite_sdaDir (s : State) (i v : Byte) : (s.memWrite i v).sdaDir = s.sdaDir := rfl

@[simp] theorem State.memWrite_sclOut (s : State) (i v : Byte) : (s.memWrite i v).sclOut = s.sclOut := rfl

@[simp] theorem State.memWrite_sdaOut (s : State) (i v : Byte) : (s.memWrite i v).sdaOut = s.sdaOut := rfl

@[simp] theorem State.memWrite_busState (s : State) (i v : Byte) : (s.memWrite i v).busState = s.busState := rfl

@[simp] theorem State.memWrite_result (s : State) (i v : Byte) : (s.memWrite i v).result = s.result := rfl

@[simp] theorem State.memWrite_ignNack (s : State) (i v : Byte) : (s.memWrite i v).ignNack = s.ignNack := rfl

@[simp] theorem State.memWrite_protoViol (s : State) (i v : Byte) : (s.memWrite i v).protoViol = s.protoViol := rfl

@[simp] theorem State.memWrite_sample (s : State) (i v : Byte) : (s.memWrite i v).sample = s.sample := rfl

@[simp] theorem State.memWrite_rxData (s : State) (i v : Byte) : (s.memWrite i v).rxData = s.rxData := rfl

@[simp] theorem State.memWrite_fIllegal (s : State) (i v : Byte) : (s.memWrite i v).fIllegal = s.fIllegal := rfl

@[simp] theorem State.memWrite_fRdOut (s : State) (i v : Byte) : (s.memWrite i v).fRdOut = s.fRdOut := rfl

@[simp] theorem State.memWrite_fNoInit (s : State) (i v : Byte) : (s.memWrite i v).fNoInit = s.fNoInit := rfl

@[simp] theorem State.memWrite_fReinit (s : State) (i v : Byte) : (s.memWrite i v).fReinit = s.fReinit := rfl

@[simp] theorem State.memWrite_buf (s : State) (i v : Byte) : (s.memWrite i v).buf = bufSet i.toNat v s.buf := rfl

@[simp] theorem State.memWrite_trace (s : State) (i v : Byte) : (s.memWrite i v).trace = s.trace := rfl

@[simp] theorem State.memWrite_env (s : State) (i v : Byte) : (s.memWrite i v).env = s.env := rfl

@[simp] theorem State.memWrite_draws (s : State) (i v : Byte) : (s.memWrite i v).draws = s.draws := rfl

@[simp] theorem State.memWrite_pending (s : State) (i v : Byte) : (s.memWrite i v).pending = s.pending := rfl

@[simp] theorem State.memWrite_replies (s : State) (i v : Byte) : (s.memWrite i v).replies = s.replies := rfl

/-! ### reply -/

@[simp] theorem State.reply_params (s : State) (r : HostReply) : (s.reply r).params = s.params := rfl

@[simp] theorem State.reply_initDone (s : State) (r : HostReply) : (s.reply r).initDone = s.initDone := rfl

@[simp] theorem State.reply_sclCfg (s : State) (r : HostReply) : (s.reply r).sclCfg = s.sclCfg := rfl

@[simp] theorem State.reply_sdaDir (s : State) (r : HostReply) : (s.reply r).sdaDir = s.sdaDir := rfl

@[simp] theorem State.reply_sclOut (s : State) (r : HostReply) : (s.reply r).sclOut = s.sclOut := rfl

@[simp] theorem State.reply_sdaOut (s : State) (r : HostReply) : (s.reply r).sdaOut = s.sdaOut := rfl

@[simp] theorem State.reply_busState (s : State) (r : HostReply) : (s.reply r).busState = s.busState := rfl

@[simp] theorem State.reply_result (s : State) (r : HostReply) : (s.reply r).result = s.result := rfl

@[simp] theorem State.reply_ignNack (s : State) (r : HostReply) : (s.reply r).ignNack = s.ignNack := rfl

@[simp] theorem State.reply_protoViol (s : State) (r : HostReply) : (s.reply r).protoViol = s.protoViol := rfl

@[simp] theorem State.reply_sample (s : State) (r : HostReply) : (s.reply r).sample = s.sample := rfl

@[simp] theorem State.reply_rxData (s : State) (r : HostReply) : (s.reply r).rxData = s.rxData := rfl

@[simp] theorem State.reply_fIllegal (s : State) (r : HostReply) : (s.reply r).fIllegal = s.fIllegal := rfl

@[simp] theorem State.reply_fRdOut (s : State) (r : HostReply) : (s.reply r).fRdOut = s.fRdOut := rfl

@[simp] theorem State.reply_fNoInit (s : State) (r : HostReply) : (s.reply r).fNoInit = s.fNoInit := rfl

@[simp] theorem State.reply_fReinit (s : State) (r : HostReply) : (s.reply r).fReinit = s.fReinit := rfl

@[simp] theorem State.reply_buf (s : State) (r : HostReply) : (s.reply r).buf = s.buf := rfl

@[simp] theorem State.reply_trace (s : State) (r : HostReply) : (s.reply r).trace = s.trace := rfl

@[simp] theorem State.reply_env (s : State) (r : HostReply) : (s.reply r).env = s.env := rfl

@[simp] theorem State.reply_draws (s : State) (r : HostReply) : (s.reply r).draws = s.draws := rfl

@[simp] theorem State.reply_pending (s : State) (r : HostReply) : (s.reply r).pending = s.pending := rfl

@[simp] theorem State.reply_replies (s : State) (r : HostReply) : (s.reply r).replies = s.replies ++ [r] := rfl

/-! ### takePending -/

@[simp] theorem State.takePending_params (s : State) : (s.takePending).params = s.params := rfl

@[simp] theorem State.takePending_initDone (s : State) : (s.takePending).initDone = s.initDone := rfl

@[simp] theorem State.takePending_sclCfg (s : State) : (s.takePending).sclCfg = s.sclCfg := rfl

@[simp] theorem State.takePending_sdaDir (s : State) : (s.takePending).sdaDir = s.sdaDir := rfl

@[simp] theorem State.takePending_sclOut (s : State) : (s.takePending).sclOut = s.sclOut := rfl

@[simp] theorem State.takePending_sdaOut (s : State) : (s.takePending).sdaOut = s.sdaOut := rfl

@[simp] theorem State.takePending_busState (s : State) : (s.takePending).busState = s.busState := rfl

@[simp] theorem State.takePending_result (s : State) : (s.takePending).result = s.result := rfl

@[simp] theorem State.takePending_ignNack (s : State) : (s.takePending).ignNack = s.ignNack := rfl

@[simp] theorem State.takePending_protoViol (s : State) : (s.takePending).protoViol = s.protoViol := rfl

@[simp] theorem State.takePending_sample (s : State) : (s.takePending).sample = s.sample := rfl

@[simp] theorem State.takePending_rxData (s : State) : (s.takePending).rxData = s.rxData := rfl

@[simp] theorem State.takePending_fIllegal (s : State) : (s.takePending).fIllegal = s.fIllegal := rfl

@[simp] theorem State.takePending_fRdOut (s : State) : (s.takePending).fRdOut = s.fRdOut := rfl

@[simp] theorem State.takePending_fNoInit (s : State) : (s.takePending).fNoInit = s.fNoInit := rfl

@[simp] theorem State.takePending_fReinit (s : State) : (s.takePending).fReinit = s.fReinit := rfl

@[simp] theorem State.takePending_buf (s : State) : (s.takePending).buf = s.buf := rfl

@[simp] theorem State.takePending_trace (s : State) : (s.takePending).trace = s.trace := rfl

@[simp] theorem State.takePending_env (s : State) : (s.takePending).env = s.env := rfl

@[simp] theorem State.takePending_draws (s : State) : (s.takePending).draws = s.draws := rfl

@[simp] theorem State.takePending_pending (s : State) : (s.takePending).pending = s.pending.tail := rfl

@[simp] theorem State.takePending_replies (s : State) : (s.takePending).replies = s.replies := rfl

/-! ### thenCommand -/

@[simp] theorem State.thenCommand_params (s : State) (w : Word) : (s.thenCommand w).params = s.params := rfl

@[simp] theorem State.thenCommand_initDone (s : State) (w : Word) : (s.thenCommand w).initDone = s.initDone := rfl

@[simp] theorem State.thenCommand_sclCfg (s : State) (w : Word) : (s.thenCommand w).sclCfg = s.sclCfg := rfl

@[simp] theorem State.thenCommand_sdaDir (s : State) (w : Word) : (s.thenCommand w).sdaDir = s.sdaDir := rfl

@[simp] theorem State.thenCommand_sclOut (s : State) (w : Word) : (s.thenCommand w).sclOut = s.sclOut := rfl

@[simp] theorem State.thenCommand_sdaOut (s : State) (w : Word) : (s.thenCommand w).sdaOut = s.sdaOut := rfl

@[simp] theorem State.thenCommand_busState (s : State) (w : Word) : (s.thenCommand w).busState = s.busState := rfl

@[simp] theorem State.thenCommand_result (s : State) (w : Word) : (s.thenCommand w).result = s.result := rfl

@[simp] theorem State.thenCommand_ignNack (s : State) (w : Word) : (s.thenCommand w).ignNack = s.ignNack := rfl

@[simp] theorem State.thenCommand_protoViol (s : State) (w : Word) : (s.thenCommand w).protoViol = s.protoViol := rfl

@[simp] theorem State.thenCommand_sample (s : State) (w : Word) : (s.thenCommand w).sample = s.sample := rfl

@[simp] theorem State.thenCommand_rxData (s : State) (w : Word) : (s.thenCommand w).rxData = s.rxData := rfl

@[simp] theorem State.thenCommand_fIllegal (s : State) (w : Word) : (s.thenCommand w).fIllegal = s.fIllegal := rfl

@[simp] theorem State.thenCommand_fRdOut (s : State) (w : Word) : (s.thenCommand w).fRdOut = s.fRdOut := rfl

@[simp] theorem State.thenCommand_fNoInit (s : State) (w : Word) : (s.thenCommand w).fNoInit = s.fNoInit := rfl

@[simp] theorem State.thenCommand_fReinit (s : State) (w : Word) : (s.thenCommand w).fReinit = s.fReinit := rfl

@[simp] theorem State.thenCommand_buf (s : State) (w : Word) : (s.thenCommand w).buf = s.buf := rfl

@[simp] theorem State.thenCommand_trace (s : State) (w : Word) : (s.thenCommand w).trace = s.trace := rfl

@[simp] theorem State.thenCommand_env (s : State) (w : Word) : (s.thenCommand w).env = s.env := rfl

@[simp] theorem State.thenCommand_draws (s : State) (w : Word) : (s.thenCommand w).draws = s.draws := rfl

@[simp] theorem State.thenCommand_pending (s : State) (w : Word) : (s.thenCommand w).pending = .write .word cmdOffset w :: s.pending := rfl

@[simp] theorem State.thenCommand_replies (s : State) (w : Word) : (s.thenCommand w).replies = s.replies := rfl

/-! ### raiseFault (60_exceptions.md R112) -/

@[simp] theorem State.raiseFault_params (s : State) (c : FaultCode) : (s.raiseFault c).params = s.params := by
  cases c <;> rfl

@[simp] theorem State.raiseFault_initDone (s : State) (c : FaultCode) : (s.raiseFault c).initDone = s.initDone := by
  cases c <;> rfl

@[simp] theorem State.raiseFault_sclCfg (s : State) (c : FaultCode) : (s.raiseFault c).sclCfg = s.sclCfg := by
  cases c <;> rfl

@[simp] theorem State.raiseFault_sdaDir (s : State) (c : FaultCode) : (s.raiseFault c).sdaDir = s.sdaDir := by
  cases c <;> rfl

@[simp] theorem State.raiseFault_sclOut (s : State) (c : FaultCode) : (s.raiseFault c).sclOut = s.sclOut := by
  cases c <;> rfl

@[simp] theorem State.raiseFault_sdaOut (s : State) (c : FaultCode) : (s.raiseFault c).sdaOut = s.sdaOut := by
  cases c <;> rfl

@[simp] theorem State.raiseFault_busState (s : State) (c : FaultCode) : (s.raiseFault c).busState = s.busState := by
  cases c <;> rfl

@[simp] theorem State.raiseFault_result (s : State) (c : FaultCode) : (s.raiseFault c).result = s.result := by
  cases c <;> rfl

@[simp] theorem State.raiseFault_ignNack (s : State) (c : FaultCode) : (s.raiseFault c).ignNack = s.ignNack := by
  cases c <;> rfl

@[simp] theorem State.raiseFault_protoViol (s : State) (c : FaultCode) : (s.raiseFault c).protoViol = s.protoViol := by
  cases c <;> rfl

@[simp] theorem State.raiseFault_sample (s : State) (c : FaultCode) : (s.raiseFault c).sample = s.sample := by
  cases c <;> rfl

@[simp] theorem State.raiseFault_rxData (s : State) (c : FaultCode) : (s.raiseFault c).rxData = s.rxData := by
  cases c <;> rfl

@[simp] theorem State.raiseFault_fIllegal (s : State) (c : FaultCode) :
    (s.raiseFault c).fIllegal = (s.fIllegal || c == .illegal) := by cases c <;> simp [State.raiseFault]

@[simp] theorem State.raiseFault_fRdOut (s : State) (c : FaultCode) :
    (s.raiseFault c).fRdOut = (s.fRdOut || c == .rdOut) := by cases c <;> simp [State.raiseFault]

@[simp] theorem State.raiseFault_fNoInit (s : State) (c : FaultCode) :
    (s.raiseFault c).fNoInit = (s.fNoInit || c == .noInit) := by cases c <;> simp [State.raiseFault]

@[simp] theorem State.raiseFault_fReinit (s : State) (c : FaultCode) :
    (s.raiseFault c).fReinit = (s.fReinit || c == .reinit) := by cases c <;> simp [State.raiseFault]

@[simp] theorem State.raiseFault_buf (s : State) (c : FaultCode) : (s.raiseFault c).buf = s.buf := by
  cases c <;> rfl

@[simp] theorem State.raiseFault_trace (s : State) (c : FaultCode) : (s.raiseFault c).trace = s.trace := by
  cases c <;> rfl

@[simp] theorem State.raiseFault_env (s : State) (c : FaultCode) : (s.raiseFault c).env = s.env := by
  cases c <;> rfl

@[simp] theorem State.raiseFault_draws (s : State) (c : FaultCode) : (s.raiseFault c).draws = s.draws := by
  cases c <;> rfl

@[simp] theorem State.raiseFault_pending (s : State) (c : FaultCode) : (s.raiseFault c).pending = s.pending := by
  cases c <;> rfl

@[simp] theorem State.raiseFault_replies (s : State) (c : FaultCode) : (s.raiseFault c).replies = s.replies := by
  cases c <;> rfl

/-! ### Draws: only the counter changes (00_scope.md R11) -/

@[simp] theorem State.readBit_params (s : State) (h : Held Bit) : (s.readBit h).2.params = s.params := by
  cases h <;> rfl

@[simp] theorem State.readBit_initDone (s : State) (h : Held Bit) : (s.readBit h).2.initDone = s.initDone := by
  cases h <;> rfl

@[simp] theorem State.readBit_sclCfg (s : State) (h : Held Bit) : (s.readBit h).2.sclCfg = s.sclCfg := by
  cases h <;> rfl

@[simp] theorem State.readBit_sdaDir (s : State) (h : Held Bit) : (s.readBit h).2.sdaDir = s.sdaDir := by
  cases h <;> rfl

@[simp] theorem State.readBit_sclOut (s : State) (h : Held Bit) : (s.readBit h).2.sclOut = s.sclOut := by
  cases h <;> rfl

@[simp] theorem State.readBit_sdaOut (s : State) (h : Held Bit) : (s.readBit h).2.sdaOut = s.sdaOut := by
  cases h <;> rfl

@[simp] theorem State.readBit_busState (s : State) (h : Held Bit) : (s.readBit h).2.busState = s.busState := by
  cases h <;> rfl

@[simp] theorem State.readBit_result (s : State) (h : Held Bit) : (s.readBit h).2.result = s.result := by
  cases h <;> rfl

@[simp] theorem State.readBit_ignNack (s : State) (h : Held Bit) : (s.readBit h).2.ignNack = s.ignNack := by
  cases h <;> rfl

@[simp] theorem State.readBit_protoViol (s : State) (h : Held Bit) : (s.readBit h).2.protoViol = s.protoViol := by
  cases h <;> rfl

@[simp] theorem State.readBit_sample (s : State) (h : Held Bit) : (s.readBit h).2.sample = s.sample := by
  cases h <;> rfl

@[simp] theorem State.readBit_rxData (s : State) (h : Held Bit) : (s.readBit h).2.rxData = s.rxData := by
  cases h <;> rfl

@[simp] theorem State.readBit_fIllegal (s : State) (h : Held Bit) : (s.readBit h).2.fIllegal = s.fIllegal := by
  cases h <;> rfl

@[simp] theorem State.readBit_fRdOut (s : State) (h : Held Bit) : (s.readBit h).2.fRdOut = s.fRdOut := by
  cases h <;> rfl

@[simp] theorem State.readBit_fNoInit (s : State) (h : Held Bit) : (s.readBit h).2.fNoInit = s.fNoInit := by
  cases h <;> rfl

@[simp] theorem State.readBit_fReinit (s : State) (h : Held Bit) : (s.readBit h).2.fReinit = s.fReinit := by
  cases h <;> rfl

@[simp] theorem State.readBit_buf (s : State) (h : Held Bit) : (s.readBit h).2.buf = s.buf := by
  cases h <;> rfl

@[simp] theorem State.readBit_trace (s : State) (h : Held Bit) : (s.readBit h).2.trace = s.trace := by
  cases h <;> rfl

@[simp] theorem State.readBit_env (s : State) (h : Held Bit) : (s.readBit h).2.env = s.env := by
  cases h <;> rfl

@[simp] theorem State.readBit_pending (s : State) (h : Held Bit) : (s.readBit h).2.pending = s.pending := by
  cases h <;> rfl

@[simp] theorem State.readBit_replies (s : State) (h : Held Bit) : (s.readBit h).2.replies = s.replies := by
  cases h <;> rfl

@[simp] theorem State.readByte_params (s : State) (h : Held Byte) : (s.readByte h).2.params = s.params := by
  cases h <;> rfl

@[simp] theorem State.readByte_initDone (s : State) (h : Held Byte) : (s.readByte h).2.initDone = s.initDone := by
  cases h <;> rfl

@[simp] theorem State.readByte_sclCfg (s : State) (h : Held Byte) : (s.readByte h).2.sclCfg = s.sclCfg := by
  cases h <;> rfl

@[simp] theorem State.readByte_sdaDir (s : State) (h : Held Byte) : (s.readByte h).2.sdaDir = s.sdaDir := by
  cases h <;> rfl

@[simp] theorem State.readByte_sclOut (s : State) (h : Held Byte) : (s.readByte h).2.sclOut = s.sclOut := by
  cases h <;> rfl

@[simp] theorem State.readByte_sdaOut (s : State) (h : Held Byte) : (s.readByte h).2.sdaOut = s.sdaOut := by
  cases h <;> rfl

@[simp] theorem State.readByte_busState (s : State) (h : Held Byte) : (s.readByte h).2.busState = s.busState := by
  cases h <;> rfl

@[simp] theorem State.readByte_result (s : State) (h : Held Byte) : (s.readByte h).2.result = s.result := by
  cases h <;> rfl

@[simp] theorem State.readByte_ignNack (s : State) (h : Held Byte) : (s.readByte h).2.ignNack = s.ignNack := by
  cases h <;> rfl

@[simp] theorem State.readByte_protoViol (s : State) (h : Held Byte) : (s.readByte h).2.protoViol = s.protoViol := by
  cases h <;> rfl

@[simp] theorem State.readByte_sample (s : State) (h : Held Byte) : (s.readByte h).2.sample = s.sample := by
  cases h <;> rfl

@[simp] theorem State.readByte_rxData (s : State) (h : Held Byte) : (s.readByte h).2.rxData = s.rxData := by
  cases h <;> rfl

@[simp] theorem State.readByte_fIllegal (s : State) (h : Held Byte) : (s.readByte h).2.fIllegal = s.fIllegal := by
  cases h <;> rfl

@[simp] theorem State.readByte_fRdOut (s : State) (h : Held Byte) : (s.readByte h).2.fRdOut = s.fRdOut := by
  cases h <;> rfl

@[simp] theorem State.readByte_fNoInit (s : State) (h : Held Byte) : (s.readByte h).2.fNoInit = s.fNoInit := by
  cases h <;> rfl

@[simp] theorem State.readByte_fReinit (s : State) (h : Held Byte) : (s.readByte h).2.fReinit = s.fReinit := by
  cases h <;> rfl

@[simp] theorem State.readByte_buf (s : State) (h : Held Byte) : (s.readByte h).2.buf = s.buf := by
  cases h <;> rfl

@[simp] theorem State.readByte_trace (s : State) (h : Held Byte) : (s.readByte h).2.trace = s.trace := by
  cases h <;> rfl

@[simp] theorem State.readByte_env (s : State) (h : Held Byte) : (s.readByte h).2.env = s.env := by
  cases h <;> rfl

@[simp] theorem State.readByte_pending (s : State) (h : Held Byte) : (s.readByte h).2.pending = s.pending := by
  cases h <;> rfl

@[simp] theorem State.readByte_replies (s : State) (h : Held Byte) : (s.readByte h).2.replies = s.replies := by
  cases h <;> rfl

@[simp] theorem State.memRead_params (s : State) (i : Byte) : (s.memRead i).2.params = s.params := by simp [State.memRead]

@[simp] theorem State.memRead_initDone (s : State) (i : Byte) : (s.memRead i).2.initDone = s.initDone := by simp [State.memRead]

@[simp] theorem State.memRead_sclCfg (s : State) (i : Byte) : (s.memRead i).2.sclCfg = s.sclCfg := by simp [State.memRead]

@[simp] theorem State.memRead_sdaDir (s : State) (i : Byte) : (s.memRead i).2.sdaDir = s.sdaDir := by simp [State.memRead]

@[simp] theorem State.memRead_sclOut (s : State) (i : Byte) : (s.memRead i).2.sclOut = s.sclOut := by simp [State.memRead]

@[simp] theorem State.memRead_sdaOut (s : State) (i : Byte) : (s.memRead i).2.sdaOut = s.sdaOut := by simp [State.memRead]

@[simp] theorem State.memRead_busState (s : State) (i : Byte) : (s.memRead i).2.busState = s.busState := by simp [State.memRead]

@[simp] theorem State.memRead_result (s : State) (i : Byte) : (s.memRead i).2.result = s.result := by simp [State.memRead]

@[simp] theorem State.memRead_ignNack (s : State) (i : Byte) : (s.memRead i).2.ignNack = s.ignNack := by simp [State.memRead]

@[simp] theorem State.memRead_protoViol (s : State) (i : Byte) : (s.memRead i).2.protoViol = s.protoViol := by simp [State.memRead]

@[simp] theorem State.memRead_sample (s : State) (i : Byte) : (s.memRead i).2.sample = s.sample := by simp [State.memRead]

@[simp] theorem State.memRead_rxData (s : State) (i : Byte) : (s.memRead i).2.rxData = s.rxData := by simp [State.memRead]

@[simp] theorem State.memRead_fIllegal (s : State) (i : Byte) : (s.memRead i).2.fIllegal = s.fIllegal := by simp [State.memRead]

@[simp] theorem State.memRead_fRdOut (s : State) (i : Byte) : (s.memRead i).2.fRdOut = s.fRdOut := by simp [State.memRead]

@[simp] theorem State.memRead_fNoInit (s : State) (i : Byte) : (s.memRead i).2.fNoInit = s.fNoInit := by simp [State.memRead]

@[simp] theorem State.memRead_fReinit (s : State) (i : Byte) : (s.memRead i).2.fReinit = s.fReinit := by simp [State.memRead]

@[simp] theorem State.memRead_buf (s : State) (i : Byte) : (s.memRead i).2.buf = s.buf := by simp [State.memRead]

@[simp] theorem State.memRead_trace (s : State) (i : Byte) : (s.memRead i).2.trace = s.trace := by simp [State.memRead]

@[simp] theorem State.memRead_env (s : State) (i : Byte) : (s.memRead i).2.env = s.env := by simp [State.memRead]

@[simp] theorem State.memRead_pending (s : State) (i : Byte) : (s.memRead i).2.pending = s.pending := by simp [State.memRead]

@[simp] theorem State.memRead_replies (s : State) (i : Byte) : (s.memRead i).2.replies = s.replies := by simp [State.memRead]

/-! ### power-on reset and the pin fields -/

@[simp] theorem State.cfgScl_sclCfg (s : State) :
    s.cfgScl.sclCfg = (match s.params.sclMode with | .pp => .pp | .od => .od) := rfl

/-- With an answer held, the environment gives it (10_state.md R32). -/
theorem State.envAnswer_cons (s : State) (b : Bit) (rest : List Bit) (h : s.env = b :: rest) : s.envAnswer = b := by
  simp [State.envAnswer, h]

/-- Past the answers held, the answer is `env_sda` of the trace so far (10_state.md R32). -/
theorem State.envAnswer_nil (s : State) (h : s.env = []) : s.envAnswer = s.busAnswer s.trace := by
  simp [State.envAnswer, h]

end Sys2Proof.Machine
end

