-- ==== Sys2Proof/Laws/Acceptance.lean ====
section
/-! SUPPORT. What the acceptance checks do (60_exceptions.md R109), once for all commands. -/

namespace Sys2Proof.Machine

/-- A command that passes the checks runs its expansion (R109). -/
theorem execute_accepted (c : Instr) (s : State) (e : State → State) (hw : c.wellFormed = true)
    (hi : c = .init ↔ s.initDone = false) (hr : c = .rdSda → s.sdaDir ≠ .output) : execute c s e = .next (e s) := by
  have : acceptance c s = none := by
    simp only [acceptance, hw]
    by_cases h : c = .init <;> by_cases h' : c = .rdSda <;> simp_all
  simp [execute, this]

/-- Any other command before INIT is refused with F_NOINIT (R109). -/
theorem execute_noInit (c : Instr) (s : State) (e : State → State) (hw : c.wellFormed = true) (hc : c ≠ .init)
    (hs : s.initDone = false) : execute c s e = .next { s with fNoInit := true } := by
  simp [execute, acceptance, hw, hc, hs, State.raiseFault]

/-- INIT after INIT is refused with F_REINIT (R109). -/
theorem execute_reinit (s : State) (e : State → State) (hs : s.initDone = true) :
    execute .init s e = .next { s with fReinit := true } := by
  simp [execute, acceptance, Instr.wellFormed, hs, State.raiseFault]

/-- RD_SDA in output mode is refused with F_RD_OUT (R109, R78). -/
theorem execute_rdOut (s : State) (e : State → State) (hs : s.initDone = true) (hd : s.sdaDir = .output) :
    execute .rdSda s e = .next { s with fRdOut := true } := by
  simp [execute, acceptance, Instr.wellFormed, hs, hd, State.raiseFault]

/-- Everything `execute` can do: refuse with one fault bit, or run the expansion of a command that passes the checks. -/
theorem execute_cases (c : Instr) (s t : State) (e : State → State) (h : execute c s e = .next t) :
    (∃ f, acceptance c s = some f ∧ t = s.raiseFault f)
    ∨ (c.wellFormed = true ∧ (c = .init ↔ s.initDone = false) ∧ (c = .rdSda → s.sdaDir ≠ .output) ∧ t = e s) := by
  cases ha : acceptance c s with
  | some f =>
    left
    simp only [execute, ha, Host.Outcome.next.injEq] at h
    exact ⟨f, rfl, h.symm⟩
  | none =>
    right
    simp only [execute, ha, Host.Outcome.next.injEq] at h
    simp only [acceptance] at ha
    split_ifs at ha with h₁ h₂ h₃ h₄
    refine ⟨by simpa using h₁, ⟨fun hc => ?_, fun hs => ?_⟩, fun hc hd => h₄ ⟨hc, hd⟩, h.symm⟩
    · by_contra hs
      exact h₂ ⟨hc, by simpa using hs⟩
    · by_contra hc
      exact h₃ ⟨hc, hs⟩

end Sys2Proof.Machine
end

