-- ==== Sys2Proof/Laws/Encoding.lean ====
section
/-! SUPPORT. The encoding formats in numbers: the value of each format's word and of a word's field, and from them the fields of
an encoded command, one way and the other (30_encoding.md R58 to R61). -/

namespace Sys2Proof

/-- A field is the word's bits from `lo` up, as a number. -/
theorem field_toNat (w : Word) (lo n : Nat) : (field w lo n).toNat = w.toNat / 2 ^ lo % 2 ^ n := by
  simp [field, Nat.shiftRight_eq_div_pow]

/-- Two bit vectors side by side, as a number. -/
theorem append_toNat {n m : Nat} (a : BitVec n) (b : BitVec m) : (a ++ b).toNat = a.toNat * 2 ^ m + b.toNat := by
  rw [BitVec.toNat_append, ← Nat.shiftLeft_add_eq_or_of_lt b.isLt, Nat.shiftLeft_eq]

/-- The value of a format N word (R58). -/
theorem encodeN_toNat (o : BitVec 8) : (encodeN o).toNat = o.toNat * 2 ^ 24 :=
  (append_toNat o 0#24).trans (by simp)

/-- The value of a format L word (R59). -/
theorem encodeL_toNat (o : BitVec 8) (l : Bit) : (encodeL o l).toNat = o.toNat * 2 ^ 24 + l.toNat := by
  refine (append_toNat (o ++ 0#23) (BitVec.ofBool l)).trans ?_
  rw [append_toNat]
  simp
  omega

/-- The value of a format B word (R60). -/
theorem encodeB_toNat (o : BitVec 8) (v : Byte) : (encodeB o v).toNat = o.toNat * 2 ^ 24 + v.toNat := by
  refine (append_toNat (o ++ 0#16) v).trans ?_
  rw [append_toNat]
  simp
  omega

/-- The value of a format T word (R61). -/
theorem encodeT_toNat (o : BitVec 8) (d : DevAddr) (r v : Byte) :
    (encodeT o d r v).toNat = o.toNat * 2 ^ 24 + d.toNat * 2 ^ 16 + r.toNat * 2 ^ 8 + v.toNat := by
  refine (append_toNat (o ++ 0#1 ++ d ++ r) v).trans ?_
  rw [append_toNat, append_toNat, append_toNat]
  simp
  omega

/-- The fields of a format N word. -/
theorem fields_encodeN (o : BitVec 8) : field (encodeN o) 24 8 = o ∧ field (encodeN o) 0 24 = 0 := by
  have := o.isLt
  constructor <;> apply BitVec.eq_of_toNat_eq <;> rw [field_toNat, encodeN_toNat]
  · omega
  · simp

/-- The fields of a format L word. -/
theorem fields_encodeL (o : BitVec 8) (l : Bit) :
    field (encodeL o l) 24 8 = o ∧ field (encodeL o l) 1 23 = 0 ∧ (encodeL o l).getLsbD 0 = l := by
  have := o.isLt
  have hb : l.toNat < 2 := Bool.toNat_lt l
  refine ⟨?_, ?_, ?_⟩
  · apply BitVec.eq_of_toNat_eq
    rw [field_toNat, encodeL_toNat]
    omega
  · apply BitVec.eq_of_toNat_eq
    rw [field_toNat, encodeL_toNat]
    simp
    omega
  · rw [BitVec.getLsbD, encodeL_toNat, Nat.testBit_zero]
    cases l <;> simp <;> omega

/-- The fields of a format B word. -/
theorem fields_encodeB (o : BitVec 8) (v : Byte) :
    field (encodeB o v) 24 8 = o ∧ field (encodeB o v) 8 16 = 0 ∧ field (encodeB o v) 0 8 = v := by
  have := o.isLt
  have := v.isLt
  refine ⟨?_, ?_, ?_⟩ <;> apply BitVec.eq_of_toNat_eq <;> rw [field_toNat, encodeB_toNat] <;> simp <;> omega

/-- The fields of a format T word. -/
theorem fields_encodeT (o : BitVec 8) (d : DevAddr) (r v : Byte) :
    field (encodeT o d r v) 24 8 = o ∧ field (encodeT o d r v) 23 1 = 0 ∧ field (encodeT o d r v) 16 7 = d
    ∧ field (encodeT o d r v) 8 8 = r ∧ field (encodeT o d r v) 0 8 = v := by
  have := o.isLt
  have := d.isLt
  have := r.isLt
  have := v.isLt
  refine ⟨?_, ?_, ?_, ?_, ?_⟩ <;> apply BitVec.eq_of_toNat_eq <;> rw [field_toNat, encodeT_toNat] <;> simp <;> omega

/-- A word of format N is the encoding of its opcode. -/
theorem encodeN_fields (w : Word) (h : field w 0 24 = 0) : encodeN (field w 24 8) = w := by
  have h : (field w 0 24).toNat = 0 := by rw [h]; rfl
  have := w.isLt
  apply BitVec.eq_of_toNat_eq
  rw [encodeN_toNat]
  simp only [field_toNat] at *
  omega

/-- A word of format L is the encoding of its fields. -/
theorem encodeL_fields (w : Word) (h : field w 1 23 = 0) : encodeL (field w 24 8) (w.getLsbD 0) = w := by
  have h : (field w 1 23).toNat = 0 := by rw [h]; rfl
  have := w.isLt
  apply BitVec.eq_of_toNat_eq
  rw [encodeL_toNat, BitVec.getLsbD, Nat.testBit_zero]
  simp only [field_toNat] at *
  rcases Nat.mod_two_eq_zero_or_one w.toNat with hm | hm <;> simp [hm] <;> omega

/-- A word of format B is the encoding of its fields. -/
theorem encodeB_fields (w : Word) (h : field w 8 16 = 0) : encodeB (field w 24 8) (field w 0 8) = w := by
  have h : (field w 8 16).toNat = 0 := by rw [h]; rfl
  have := w.isLt
  apply BitVec.eq_of_toNat_eq
  rw [encodeB_toNat]
  simp only [field_toNat] at *
  omega

/-- A word of format T is the encoding of its fields. -/
theorem encodeT_fields (w : Word) (h : field w 23 1 = 0) :
    encodeT (field w 24 8) (field w 16 7) (field w 8 8) (field w 0 8) = w := by
  have h : (field w 23 1).toNat = 0 := by rw [h]; rfl
  have := w.isLt
  apply BitVec.eq_of_toNat_eq
  rw [encodeT_toNat]
  simp only [field_toNat] at *
  omega

end Sys2Proof
end

