-- ==== Sys2Proof/Laws/Exec.lean ====
section
/-! SUPPORT. What `exec` runs for each command that passes the checks of 60_exceptions.md R109, and that it always answers a
next state. -/

namespace Sys2Proof.Machine

/-- What each command does once it has passed the checks. -/
def expansion : Instr → State → State
  | .init, s => (s.cfgScl.cfgSdaOut.setInitDone).setResult .ok
  | .setDir out, s => (if out then s.cfgSdaOut else s.cfgSdaIn).setResult .ok
  | .wrScl l, s => (s.drvScl l).setResult .ok
  | .wrSda l, s => (s.drvSda l).setResult .ok
  | .rdSda, s => (s.afterSmp.setSample s.envAnswer).setResult .ok
  | .start, s => (callStart s).setResult .ok
  | .stop, s => (callStop s).setResult .ok
  | .sendByte v, s => (callSendByte v s).setResult .ok
  | .recvByte, s => (callRecvByte s).2.setResult .ok
  | .waitAck, s => (waitAck s).2.setResult (match (waitAck s).1 with | .ack => .ok | .timeout => .ackTimeout)
  | .sendAck, s => (callSendAck s).setResult .ok
  | .sendNack, s => (callSendNack s).setResult .ok
  | .writeOne dev reg val, s => checkedAddress dev (fun s => closeTransaction (sendIgnored val (sendIgnored reg s))) s
  | .writeMulti dev reg n, s => checkedAddress dev (fun s => closeTransaction (sendBuf n.toNat 0 (sendIgnored reg s))) s
  | .readOne dev reg, s =>
    closeTransaction (callSendNack (callRecvByte (sendIgnored (addrByte dev true) (callStart
      (sendIgnored reg (sendIgnored (addrByte dev false) (callStart (s.setIgnNack false))))))).2)
  | .readMulti dev reg n, s =>
    checkedAddress dev (fun s => closeTransaction (recvBuf n.toNat 0
      (sendIgnored (addrByte dev true) (callStart (sendIgnored reg s))))) s

/-- Every command is its checks and then its expansion (R109). -/
theorem exec_eq (i : Instr) (s : State) : exec i s = execute i s (expansion i) := by
  cases i <;> simp only [exec, execInit, execSetDir, execWrScl, execWrSda, execRdSda, execStart, execStop, execSendByte,
    execRecvByte, execSendAck, execSendNack, execWriteOne, execWriteMulti, execReadOne, execReadMulti] <;> try rfl
  rw [execWaitAck]
  congr 1
  funext s
  rw [expansion]
  rcases waitAck s with ⟨_ | _, t⟩ <;> rfl

/-- Every command answers a next state, in every state (R112, R126). -/
theorem exec_next (i : Instr) (s : State) : ∃ t, exec i s = .next t := by
  rw [exec_eq, execute]
  split <;> exact ⟨_, rfl⟩

/-- A command that passes the checks runs its expansion (R109). -/
theorem exec_accepted (i : Instr) (s : State) (hw : i.wellFormed = true) (hi : i = .init ↔ s.initDone = false)
    (hr : i = .rdSda → s.sdaDir ≠ .output) : exec i s = .next (expansion i s) :=
  (exec_eq i s).trans (execute_accepted i s _ hw hi hr)

/-- The checks a command other than INIT and RD_SDA has to pass are INIT's having run. -/
theorem exec_run (i : Instr) (s : State) (hw : i.wellFormed = true) (hi : i ≠ .init) (hr : i ≠ .rdSda)
    (hs : s.initDone = true) : exec i s = .next (expansion i s) :=
  exec_accepted i s hw (by simp [hi, hs]) (fun h => absurd h hr)

/-- Any command but INIT is refused with F_NOINIT before INIT (R109). -/
theorem exec_noInit (i : Instr) (s : State) (hw : i.wellFormed = true) (hi : i ≠ .init) (hs : s.initDone = false) :
    exec i s = .next { s with fNoInit := true } :=
  (exec_eq i s).trans (execute_noInit i s _ hw hi hs)

/-- Everything a command can do: it is refused with one fault bit, or it passes the checks and runs its expansion. -/
theorem exec_cases (i : Instr) (s t : State) (h : exec i s = .next t) :
    (∃ f, acceptance i s = some f ∧ t = s.raiseFault f)
    ∨ (i.wellFormed = true ∧ (i = .init ↔ s.initDone = false) ∧ (i = .rdSda → s.sdaDir ≠ .output) ∧ t = expansion i s) :=
  execute_cases i s t _ (exec_eq i s ▸ h)

end Sys2Proof.Machine
end

