-- ==== Sys2Proof/Laws/Flags.lean ====
section
/-! SUPPORT. When each primitive is out of protocol (10_state.md R27). -/

namespace Sys2Proof.Machine

@[simp] theorem output_beq_input : (SdaDir.output == SdaDir.input) = false := rfl

@[simp] theorem unconf_beq_input : (SdaDir.unconf == SdaDir.input) = false := rfl

@[simp] theorem input_beq_input : (SdaDir.input == SdaDir.input) = true := rfl

@[simp] theorem started_beq_idle : (BusState.started == BusState.idle) = false := rfl

@[simp] theorem idle_beq_idle : (BusState.idle == BusState.idle) = true := rfl

@[simp] theorem violates_start (s : State) : violates .start s = (s.sdaDir == .input) := rfl

@[simp] theorem violates_stop (s : State) : violates .stop s = (s.sdaDir == .input) := rfl

@[simp] theorem violates_sendByte (s : State) :
    violates .sendByte s = (s.busState == .idle || s.sdaDir == .input) := rfl

@[simp] theorem violates_recvByte (s : State) : violates .recvByte s = (s.busState == .idle) := by
  simp [violates, Prim.needsStarted, Prim.needsOutput]

@[simp] theorem violates_waitAck (s : State) : violates .waitAck s = (s.busState == .idle) := by
  simp [violates, Prim.needsStarted, Prim.needsOutput]

@[simp] theorem violates_sendAck (s : State) :
    violates .sendAck s = (s.busState == .idle || s.sdaDir == .input) := rfl

@[simp] theorem violates_sendNack (s : State) :
    violates .sendNack s = (s.busState == .idle || s.sdaDir == .input) := rfl

end Sys2Proof.Machine
end

