-- ==== Sys2Proof/Laws/HostPort.lean ====
section
/-! SUPPORT. What a step can do, once for every host access (20_memory.md R45, 60_exceptions.md R109). -/

namespace Sys2Proof.Machine

/-- The access is taken from the head of the pending list. -/
theorem takePending_cons (s : State) (a : HostAccess) (rest : List HostAccess) (h : s.pending = a :: rest) :
    s.takePending = { s with pending := rest } := by
  simp [State.takePending, h]

/-- A step with an access pending: the move it is, or the refusal of an access R45 does not list. -/
theorem step_cons (s : State) (a : HostAccess) (rest : List HostAccess) (h : s.pending = a :: rest) :
    step s = match hostMove a with
      | some m => hostStep m { s with pending := rest }
      | none => .refused .noSuchHostAccess := by
  have ht := takePending_cons s a rest h
  cases hm : hostMove a <;> simp only [step, serveHost, h, hm, ht]

/-- Everything a step that answers a next state can do: wait, or serve the next access as the move it is. -/
theorem step_cases (s t : State) (h : step s = .next t) :
    (s.pending = [] ∧ t = s)
    ∨ ∃ a rest m, s.pending = a :: rest ∧ hostMove a = some m ∧ hostStep m { s with pending := rest } = .next t := by
  cases hp : s.pending with
  | nil =>
    left
    simp only [step, serveHost, hp, Host.Outcome.next.injEq] at h
    exact ⟨rfl, h.symm⟩
  | cons a rest =>
    right
    rw [step_cons s a rest hp] at h
    cases hm : hostMove a with
    | none => simp [hm] at h
    | some m => exact ⟨a, rest, m, rfl, hm, by simpa [hm] using h⟩

/-- A read of a bit field changes only the draw counter. -/
theorem readBit_state (h : Held Bit) (s : State) : ∃ k, (s.readBit h).2 = { s with draws := k } := by
  cases h <;> exact ⟨_, rfl⟩

/-- A read of a byte field changes only the draw counter. -/
theorem readByte_state (h : Held Byte) (s : State) : ∃ k, (s.readByte h).2 = { s with draws := k } := by
  cases h <;> exact ⟨_, rfl⟩

/-- A read of STATUS changes only the draw counter (R45: no side effect in the block). -/
theorem readStatus_state (s : State) : ∃ k, s.readStatus.2 = { s with draws := k } := by
  obtain ⟨k₁, h₁⟩ := readBit_state s.sclOut s
  obtain ⟨k₂, h₂⟩ := readBit_state s.sdaOut { s with draws := k₁ }
  obtain ⟨k₃, h₃⟩ := readBit_state s.sample { s with draws := k₂ }
  exact ⟨k₃, by simp only [State.readStatus, h₁, h₂, h₃]⟩

/-- A read of RXDATA changes only the draw counter. -/
theorem readRxData_state (s : State) : ∃ k, s.readRxData.2 = { s with draws := k } := by
  obtain ⟨k, h⟩ := readByte_state s.rxData s
  exact ⟨k, by simp only [State.readRxData, h]⟩

/-- What a host move other than a command can do: it changes only BUF, the draw counter and the replies. -/
theorem hostStep_plain (m : HostMove) (s t : State) (hm : ∀ w, m ≠ .command w) (h : hostStep m s = .next t) :
    ∃ b k r, t = { s with buf := b, draws := k, replies := r } := by
  cases m with
  | command w => exact absurd rfl (hm w)
  | readStatus =>
    obtain ⟨k, hk⟩ := readStatus_state s
    simp only [hostStep, Host.Outcome.next.injEq] at h
    exact ⟨s.buf, k, _, by rw [← h, hk]; rfl⟩
  | readRxData =>
    obtain ⟨k, hk⟩ := readRxData_state s
    simp only [hostStep, Host.Outcome.next.injEq] at h
    exact ⟨s.buf, k, _, by rw [← h, hk]; rfl⟩
  | readBuf i =>
    obtain ⟨k, hk⟩ := readByte_state (bufGet s.buf i.toNat) s
    simp only [hostStep, Host.Outcome.next.injEq] at h
    exact ⟨s.buf, k, _, by rw [← h, State.memRead, hk]; rfl⟩
  | writeBuf i v =>
    simp only [hostStep, Host.Outcome.next.injEq] at h
    exact ⟨_, s.draws, s.replies, h.symm⟩
  | ignoredWrite =>
    simp only [hostStep, Host.Outcome.next.injEq] at h
    exact ⟨s.buf, s.draws, s.replies, h.symm⟩

/-- The offset of BUF[i] is in the upper half of the window and names index `i` (R39). -/
theorem bufOffset_fields (i : Byte) : (BitVec.ofNat 9 (0x100 + i.toNat)).msb = true
    ∧ (BitVec.ofNat 9 (0x100 + i.toNat)).setWidth 8 = i := by
  revert i
  decide

end Sys2Proof.Machine
end

