-- ==== Sys2Proof/Laws/Memory.lean ====
section
/-! SUPPORT. BUF (20_memory.md R41 to R43): a read after a write, and that every memory operation keeps the canonical form. -/

namespace Sys2Proof.Machine

/-- A read after a write gives the value at the index written and leaves every other index as it was. -/
theorem bufGet_bufSet (m : List Host.Cell) (i j : Nat) (v : Byte) :
    bufGet (bufSet i v m) j = if j = i then .val v else bufGet m j := by
  induction m with
  | nil => simp [bufSet, bufGet, eq_comm]
  | cons c rest ih =>
    obtain ⟨a, w⟩ := c
    simp only [bufSet]
    split
    · simp [bufGet, eq_comm]
    · split
      · subst_vars
        simp only [bufGet, eq_comm]
        split <;> simp_all
      · simp only [bufGet, ih]
        split <;> split <;> simp_all

/-- The byte just written is read. -/
theorem bufGet_bufSet_same (m : List Host.Cell) (i : Nat) (v : Byte) : bufGet (bufSet i v m) i = .val v := by
  simp [bufGet_bufSet]

/-- Every other byte is as before. -/
theorem bufGet_bufSet_other (m : List Host.Cell) (i j : Nat) (v : Byte) (h : j ≠ i) :
    bufGet (bufSet i v m) j = bufGet m j := by simp [bufGet_bufSet, h]

/-- A lower bound may be lowered. -/
theorem risingFrom_le (m : List Host.Cell) (lo lo' : Nat) (h : Memory.risingFrom lo m = true) (hl : lo' ≤ lo) :
    Memory.risingFrom lo' m = true := by
  cases m with
  | nil => rfl
  | cons c rest =>
    obtain ⟨a, w⟩ := c
    simp only [Memory.risingFrom, Bool.and_eq_true, decide_eq_true_eq] at h ⊢
    exact ⟨⟨by omega, h.1.2⟩, h.2⟩

/-- A write at an index above the bound keeps the indices rising. -/
theorem risingFrom_bufSet (m : List Host.Cell) (lo i : Nat) (v : Byte) (h : Memory.risingFrom lo m = true) (hlo : lo ≤ i)
    (hi : i < 256) : Memory.risingFrom lo (bufSet i v m) = true := by
  induction m generalizing lo with
  | nil => simp [bufSet, Memory.risingFrom, hlo, hi]
  | cons c rest ih =>
    obtain ⟨a, w⟩ := c
    simp only [Memory.risingFrom, Bool.and_eq_true, decide_eq_true_eq] at h
    simp only [bufSet]
    split
    · simp only [Memory.risingFrom, Bool.and_eq_true, decide_eq_true_eq]
      exact ⟨⟨hlo, hi⟩, ⟨by omega, h.1.2⟩, h.2⟩
    · split
      · subst_vars
        simp only [Memory.risingFrom, Bool.and_eq_true, decide_eq_true_eq]
        exact h
      · simp only [Memory.risingFrom, Bool.and_eq_true, decide_eq_true_eq]
        exact ⟨h.1, ih (a + 1) h.2 (by omega)⟩

/-- MemWrite keeps the canonical form (R43). -/
theorem memWrite_wf (s : State) (i v : Byte) (h : Memory.wf s.buf = true) : Memory.wf (s.memWrite i v).buf = true :=
  risingFrom_bufSet s.buf 0 i.toNat v h (Nat.zero_le _) i.isLt

/-- MemRead keeps BUF as it is (R42). -/
theorem memRead_wf (s : State) (i : Byte) (h : Memory.wf s.buf = true) : Memory.wf (s.memRead i).2.buf = true := by
  simpa using h

/-- Reset's BUF is in canonical form. -/
theorem reset_buf_wf : Memory.wf State.reset.buf = true := rfl

/-- In canonical form an index below the bound is not listed. -/
theorem bufGet_of_lt (m : List Host.Cell) (lo i : Nat) (h : Memory.risingFrom lo m = true) (hi : i < lo) :
    bufGet m i = .unspec := by
  induction m generalizing lo with
  | nil => rfl
  | cons c rest ih =>
    obtain ⟨a, w⟩ := c
    simp only [Memory.risingFrom, Bool.and_eq_true, decide_eq_true_eq] at h
    rw [bufGet, if_neg (by omega)]
    exact ih (a + 1) h.2 (by omega)

/-- The canonical form has one list for each content: two buffers that read the same at every index are equal. -/
theorem buf_ext (m m' : List Host.Cell) (lo : Nat) (h : Memory.risingFrom lo m = true) (h' : Memory.risingFrom lo m' = true)
    (heq : ∀ i, bufGet m i = bufGet m' i) : m = m' := by
  induction m generalizing lo m' with
  | nil =>
    cases m' with
    | nil => rfl
    | cons c' rest' => simpa [bufGet] using heq c'.1
  | cons c rest ih =>
    obtain ⟨a, w⟩ := c
    cases m' with
    | nil => simpa [bufGet] using heq a
    | cons c' rest' =>
      obtain ⟨a', w'⟩ := c'
      simp only [Memory.risingFrom, Bool.and_eq_true, decide_eq_true_eq] at h h'
      have haa : a = a' := by
        rcases Nat.lt_trichotomy a a' with hlt | rfl | hlt
        · have := heq a
          rw [bufGet, if_pos rfl, bufGet, if_neg (by omega), bufGet_of_lt rest' (a' + 1) a h'.2 (by omega)] at this
          cases this
        · rfl
        · have := heq a'
          rw [bufGet, if_neg (by omega), bufGet_of_lt rest (a + 1) a' h.2 (by omega), bufGet, if_pos rfl] at this
          cases this
      subst haa
      have hw := heq a
      simp only [bufGet, if_true] at hw
      cases hw
      congr 1
      refine ih rest' (a + 1) h.2 h'.2 fun i => ?_
      by_cases hi : a = i
      · subst hi
        rw [bufGet_of_lt rest (a + 1) a h.2 (by omega), bufGet_of_lt rest' (a + 1) a h'.2 (by omega)]
      · simpa [bufGet, hi] using heq i

end Sys2Proof.Machine
end

