-- ==== Sys2Proof/Laws/PerInstr.lean ====
section
/-! SUPPORT. Statements made of every command as syntax, one lemma per constructor. -/

namespace Sys2Proof.Laws.OpcodeField

/-- Bits 31:24 of the command's word are its opcode (30_encoding.md R56, R62). -/
def Statement (i : Instr) : Prop := field (encode i) 24 8 = i.opcode

theorem init : Statement .init := (fields_encodeN _).1

theorem setDir (out : Bit) : Statement (.setDir out) := (fields_encodeL _ out).1

theorem wrScl (level : Bit) : Statement (.wrScl level) := (fields_encodeL _ level).1

theorem wrSda (level : Bit) : Statement (.wrSda level) := (fields_encodeL _ level).1

theorem rdSda : Statement .rdSda := (fields_encodeN _).1

theorem start : Statement .start := (fields_encodeN _).1

theorem stop : Statement .stop := (fields_encodeN _).1

theorem sendByte (v : Byte) : Statement (.sendByte v) := (fields_encodeB _ v).1

theorem recvByte : Statement .recvByte := (fields_encodeN _).1

theorem waitAck : Statement .waitAck := (fields_encodeN _).1

theorem sendAck : Statement .sendAck := (fields_encodeN _).1

theorem sendNack : Statement .sendNack := (fields_encodeN _).1

theorem writeOne (dev : DevAddr) (reg val : Byte) : Statement (.writeOne dev reg val) := (fields_encodeT _ dev reg val).1

theorem writeMulti (dev : DevAddr) (reg n : Byte) : Statement (.writeMulti dev reg n) := (fields_encodeT _ dev reg n).1

theorem readOne (dev : DevAddr) (reg : Byte) : Statement (.readOne dev reg) := (fields_encodeT _ dev reg 0).1

theorem readMulti (dev : DevAddr) (reg n : Byte) : Statement (.readMulti dev reg n) := (fields_encodeT _ dev reg n).1

end Sys2Proof.Laws.OpcodeField
end

