-- ==== Sys2Proof/Laws/Primitives.lean ====
section
/-! SUPPORT. One law per shared operation of the primitives: everything it does, as one record update (41_primitives.md). -/

namespace Sys2Proof.Machine

open Sys2Proof.Safety

/-- START (R81). -/
theorem callStart_eq (s : State) : callStart s =
    { s with protoViol := s.protoViol || s.sdaDir == .input, sdaOut := .val false, sclOut := .val false,
             busState := .started, trace := s.trace ++ startEvents s.params.tD } := by
  simp [callStart, State.checkProto, State.drvSda, State.drvScl, State.wait, State.setBusState, startEvents]

/-- STOP (R84). -/
theorem callStop_eq (s : State) : callStop s =
    { s with protoViol := s.protoViol || s.sdaDir == .input, sdaOut := .val true, sclOut := .val true,
             busState := .idle, trace := s.trace ++ stopEvents s.params.tD } := by
  simp [callStop, State.checkProto, State.drvSda, State.drvScl, State.wait, State.setBusState, stopEvents]

/-- SEND_ACK (R94). -/
theorem callSendAck_eq (s : State) : callSendAck s =
    { s with protoViol := s.protoViol || s.busState == .idle || s.sdaDir == .input, sdaOut := .val false, sclOut := .val false,
             trace := s.trace ++ sendAckEvents s.params.tD } := by
  simp [callSendAck, State.checkProto, State.drvSda, State.drvScl, State.wait, sendAckEvents, Bool.or_assoc]

/-- SEND_NACK (R95). -/
theorem callSendNack_eq (s : State) : callSendNack s =
    { s with protoViol := s.protoViol || s.busState == .idle || s.sdaDir == .input, sdaOut := .val true, sclOut := .val false,
             trace := s.trace ++ sendNackEvents s.params.tD } := by
  simp [callSendNack, State.checkProto, State.drvSda, State.drvScl, State.wait, sendNackEvents, Bool.or_assoc]

/-- The first `n` bits of a byte, its top bit first, as SHIFT presents them (R86). -/
def topBits : Nat → Byte → List Bit
  | 0, _ => []
  | n + 1, shift => topBit shift :: topBits n (shiftLeft shift)

/-- SHIFT presents the bits of the byte, bit 7 first (R87). -/
theorem topBits_eight (v : Byte) : topBits 8 v = msbFirst v := by
  simp [topBits, msbFirst, topBit, shiftLeft, BitVec.msb_eq_getLsbD_last]

/-- The bit loop of SEND_BYTE: `n + 1` bits, each on a clock pulse (R86). -/
theorem shiftOut_eq (n : Nat) (shift : Byte) (s : State) : shiftOut (n + 1) shift s =
    { s with sclOut := .val true, sdaOut := .val ((topBits (n + 1) shift).getLast (by simp [topBits])),
             trace := s.trace ++ (topBits (n + 1) shift).flatMap (bitOutEvents s.params.tD) } := by
  induction n generalizing shift s with
  | zero => simp [shiftOut, topBits, bitOutEvents, State.drvSda, State.drvScl, State.wait]
  | succ n ih =>
    rw [shiftOut, ih]
    simp [topBits, bitOutEvents, State.drvSda, State.drvScl, State.wait]

/-- SEND_BYTE (R86). -/
theorem callSendByte_eq (v : Byte) (s : State) : callSendByte v s =
    { s with protoViol := s.protoViol || s.busState == .idle || s.sdaDir == .input, sdaOut := .val (v.getLsbD 0), sclOut := .val false,
             trace := s.trace ++ sendByteEvents s.params.tD v } := by
  rw [callSendByte, shiftOut_eq 7]
  simp [topBits_eight, sendByteEvents, State.checkProto, State.drvScl, State.wait, msbFirst,
    Bool.or_assoc]

/-- The bits shifted into RCV, in order (R88). -/
def shiftInBits (rcv : Byte) (bs : List Bit) : Byte := bs.foldl shiftInBit rcv

/-- Eight bits shifted into a cleared RCV are the byte's bits, the first of them bit 7 (R89). -/
theorem msbFirst_shiftInBits (b₇ b₆ b₅ b₄ b₃ b₂ b₁ b₀ : Bit) :
    msbFirst (shiftInBits 0 [b₇, b₆, b₅, b₄, b₃, b₂, b₁, b₀]) = [b₇, b₆, b₅, b₄, b₃, b₂, b₁, b₀] := by
  revert b₇ b₆ b₅ b₄ b₃ b₂ b₁ b₀
  decide

/-- A byte's bits shifted in give the byte back (R89). -/
theorem shiftInBits_msbFirst (v : Byte) : shiftInBits 0 (msbFirst v) = v := by
  revert v
  decide

/-- One turn of the bit loop of RECV_BYTE: the state (R88). -/
def afterBitIn (s : State) : State := ((s.sclEdge false).sclEdge true).afterSmp

/-- The answers the bit loop of RECV_BYTE takes. -/
def answersIn : Nat → State → List Bit
  | 0, _ => []
  | n + 1, s => ((s.sclEdge false).sclEdge true).envAnswer :: answersIn n (afterBitIn s)

/-- As many answers as turns. -/
theorem answersIn_length (n : Nat) (s : State) : (answersIn n s).length = n := by
  induction n generalizing s with
  | zero => rfl
  | succ n ih => simp [answersIn, ih]

/-- The bit loop of RECV_BYTE: `n + 1` samples, each on a clock pulse, shifted into RCV (R88). -/
theorem shiftIn_eq (n : Nat) (rcv : Byte) (s : State) : shiftIn (n + 1) rcv s =
    (shiftInBits rcv (answersIn (n + 1) s),
     { s with sclOut := .val true, env := s.env.drop (n + 1),
              trace := s.trace ++ (answersIn (n + 1) s).flatMap (bitInEvents s.params.tD) }) := by
  induction n generalizing rcv s with
  | zero =>
    simp [shiftIn, answersIn, shiftInBits, bitInEvents, State.drvScl, State.wait, State.afterSmp, State.envAnswer]
  | succ n ih =>
    rw [shiftIn]
    simp only [State.smp]
    rw [ih]
    simp [answersIn, afterBitIn, shiftInBits, bitInEvents, State.drvScl, State.wait, State.afterSmp]

/-- The byte RECV_BYTE receives: its eight samples, the first of them bit 7. -/
def receivedByte (s : State) : Byte := shiftInBits 0 (answersIn 8 (s.checkProto .recvByte).sdaToInput)

/-- The answers the state holds are the answers the bit loop takes (R32). -/
theorem answersIn_env (bs rest : List Bit) (s : State) (h : s.env = bs ++ rest) : answersIn bs.length s = bs := by
  induction bs generalizing s with
  | nil => rfl
  | cons b bs ih =>
    rw [List.length_cons, answersIn, ih (afterBitIn s) (by simp [afterBitIn, h]),
      State.envAnswer_cons _ b (bs ++ rest) (by simp [h])]

/-- RECV_BYTE's samples are the bits of the byte received, bit 7 first (R89). -/
theorem answersIn_receivedByte (s : State) :
    answersIn 8 (s.checkProto .recvByte).sdaToInput = msbFirst (receivedByte s) := by
  simp only [receivedByte, answersIn, msbFirst_shiftInBits]

/-- RECV_BYTE (R88). -/
theorem callRecvByte_eq (s : State) : callRecvByte s =
    (receivedByte s,
     { s with protoViol := s.protoViol || s.busState == .idle, sdaDir := .output, sclOut := .val false,
              rxData := .val (receivedByte s), env := s.env.drop 8,
              trace := s.trace ++ recvByteEvents s.params.tD (receivedByte s) }) := by
  rw [callRecvByte, shiftIn_eq 7, answersIn_receivedByte, shiftInBits_msbFirst]
  simp [recvByteEvents, State.checkProto, State.cfgSdaIn, State.cfgSdaOut, State.drvScl, State.wait,
    State.setRxData]

/-! ### The acknowledge detector (R90 to R92) -/

/-- How the poll loop ends with `left` samples to go: at the first low sample, or with none. -/
def pollResult : Nat → State → AckResult
  | 0, _ => .timeout
  | left + 1, s =>
    if s.envAnswer then
      match pollResult left s.afterSmp.wait with
      | .ackAt j => .ackAt (j + 1)
      | .timeout => .timeout
    else .ackAt 1

/-- The state in which the poll loop of a Wait-Ack starts. -/
def pollStart (s : State) : State := (s.checkProto .waitAck).sdaToInput.sclEdge true

/-- How the Wait-Ack that starts now ends (R92). -/
def ackResult (s : State) : AckResult := pollResult s.params.ackPollBudget (pollStart s)

/-- How many samples a Wait-Ack of that result takes (R92). -/
def samplesTaken (budget : Nat) : AckResult → Nat
  | .ackAt j => j
  | .timeout => budget

/-- What `wait_ack()` returns for that result (R91). -/
def returned : AckResult → Ack
  | .ackAt _ => .ack
  | .timeout => .timeout

/-- The poll loop's events by its result, the Stop of the timeout included. -/
def pollEvents (d left : Nat) : AckResult → List PinEvent
  | .ackAt j => highSamples d (j - 1) ++ [.smp false, .cfg .sda .od, .wait d, .drv .scl false, .wait d]
  | .timeout => highSamples d left ++ [.cfg .sda .od, .wait d] ++ stopEvents d

/-- The poll loop's result is one its budget allows (R92). -/
theorem pollResult_possible (left : Nat) (s : State) : AckResult.Possible left (pollResult left s) := by
  induction left generalizing s with
  | zero => trivial
  | succ left ih =>
    have h := ih s.afterSmp.wait
    rw [pollResult]
    split
    · split <;> simp_all [AckResult.Possible]
    · simp [AckResult.Possible]

/-- The poll loop (R91): everything it does, by its result. -/
theorem pollAck_eq (left : Nat) (s : State) : pollAck left s =
    (returned (pollResult left s),
     { s with sdaDir := .output, sclOut := .val (pollResult left s).timedOut,
              sdaOut := if (pollResult left s).timedOut then .val true else s.sdaOut,
              busState := if (pollResult left s).timedOut then .idle else s.busState,
              env := s.env.drop (samplesTaken left (pollResult left s)),
              trace := s.trace ++ pollEvents s.params.tD left (pollResult left s) }) := by
  induction left generalizing s with
  | zero =>
    simp [pollAck, pollResult, callStop_eq, returned, AckResult.timedOut, samplesTaken, pollEvents, highSamples,
      State.cfgSdaOut, State.wait]
  | succ left ih =>
    rw [pollAck, State.smp_eq]
    cases h : s.envAnswer with
    | false =>
      simp [pollResult, h, returned, AckResult.timedOut, samplesTaken, pollEvents, highSamples, State.cfgSdaOut,
        State.drvScl, State.wait, State.afterSmp]
    | true =>
      have hp := pollResult_possible left s.afterSmp.wait
      simp only [ih, pollResult, h, if_true]
      cases hr : pollResult left s.afterSmp.wait with
      | timeout =>
        simp [returned, AckResult.timedOut, samplesTaken, pollEvents, highSamples, List.replicate_succ, State.wait,
          State.afterSmp, h]
      | ackAt j =>
        rw [hr] at hp
        obtain ⟨k, rfl⟩ : ∃ k, j = k + 1 := ⟨j - 1, by have := hp.1; omega⟩
        simp [returned, AckResult.timedOut, samplesTaken, pollEvents, highSamples, List.replicate_succ, State.wait,
          State.afterSmp, h]

/-- The Wait-Ack's result is one the poll budget allows (R92). -/
theorem ackResult_possible (s : State) : AckResult.Possible s.params.ackPollBudget (ackResult s) :=
  pollResult_possible _ _

/-- `wait_ack()` (R91): everything it does, by its result. -/
theorem waitAck_eq (s : State) : waitAck s =
    (returned (ackResult s),
     { s with protoViol := s.protoViol || s.busState == .idle, sdaDir := .output,
              sclOut := .val (ackResult s).timedOut,
              sdaOut := if (ackResult s).timedOut then .val true else s.sdaOut,
              busState := if (ackResult s).timedOut then .idle else s.busState,
              env := s.env.drop (samplesTaken s.params.ackPollBudget (ackResult s)),
              trace := s.trace ++ waitAckEvents s.params.tD s.params.ackPollBudget (ackResult s) }) := by
  rw [waitAck, pollAck_eq]
  show (returned (ackResult s), _) = _
  cases h : pollResult s.params.ackPollBudget (pollStart s) <;>
    simp_all [ackResult, pollStart, waitAckEvents, pollEvents, State.checkProto, State.cfgSdaIn, State.drvScl, State.wait]

/-- With the first `n` answers high and the next low, the Wait-Ack is acknowledged at sample `n + 1` (R92). -/
theorem pollResult_ackAt (n k : Nat) (rest : List Bit) (s : State)
    (h : s.env = List.replicate n true ++ false :: rest) : pollResult (n + 1 + k) s = .ackAt (n + 1) := by
  induction n generalizing s with
  | zero => simp [Nat.add_comm 1 k, pollResult, s.envAnswer_cons false rest (by simpa using h)]
  | succ n ih =>
    have ha := s.envAnswer_cons true _ (by simpa [List.replicate_succ] using h)
    have hr := ih s.afterSmp.wait (by simp [h, List.replicate_succ])
    rw [show n + 1 + 1 + k = (n + 1 + k) + 1 by omega, pollResult, hr]
    simp [ha]

/-- With every answer of the budget high, the Wait-Ack times out (R92). -/
theorem pollResult_timeout (n : Nat) (rest : List Bit) (s : State)
    (h : s.env = List.replicate n true ++ rest) : pollResult n s = .timeout := by
  induction n generalizing s with
  | zero => rfl
  | succ n ih =>
    have ha := s.envAnswer_cons true _ (by simpa [List.replicate_succ] using h)
    have hr := ih s.afterSmp.wait (by simp [h, List.replicate_succ])
    rw [pollResult, hr]
    simp [ha]

end Sys2Proof.Machine
end

