-- ==== Sys2Proof/Laws/Transactions.lean ====
section
/-! SUPPORT. One law per shared operation of the transactions (42_transactions.md). -/

namespace Sys2Proof.Machine

open Sys2Proof.Safety

/-- An ignored Wait-Ack (R98): everything it does, by its result. -/
theorem ignAck_eq (s : State) : ignAck s =
    { s with protoViol := s.protoViol || s.busState == .idle, sdaDir := .output,
             sclOut := .val (ackResult s).timedOut,
             sdaOut := if (ackResult s).timedOut then .val true else s.sdaOut,
             busState := if (ackResult s).timedOut then .idle else s.busState,
             ignNack := s.ignNack || (ackResult s).timedOut,
             env := s.env.drop (samplesTaken s.params.ackPollBudget (ackResult s)),
             trace := s.trace ++ waitAckEvents s.params.tD s.params.ackPollBudget (ackResult s) } := by
  rw [ignAck, waitAck_eq]
  cases ackResult s <;> simp [returned, AckResult.timedOut, State.setIgnNack]

/-- How the Wait-Ack after the byte `v` ends. -/
def sentResult (v : Byte) (s : State) : AckResult := ackResult (callSendByte v s)

/-- The Wait-Ack after a byte ends as the budget allows. -/
theorem sentResult_possible (v : Byte) (s : State) : AckResult.Possible s.params.ackPollBudget (sentResult v s) := by
  have h := ackResult_possible (callSendByte v s)
  rwa [show (callSendByte v s).params = s.params by simp [callSendByte_eq]] at h

/-- A byte sent and its ignored Wait-Ack (R98): everything it does. -/
theorem sendIgnored_eq (v : Byte) (s : State) : sendIgnored v s =
    { s with protoViol := s.protoViol || s.busState == .idle || s.sdaDir == .input, sdaDir := .output,
             sclOut := .val (sentResult v s).timedOut,
             sdaOut := if (sentResult v s).timedOut then .val true else .val (v.getLsbD 0),
             busState := if (sentResult v s).timedOut then .idle else s.busState,
             ignNack := s.ignNack || (sentResult v s).timedOut,
             env := s.env.drop (samplesTaken s.params.ackPollBudget (sentResult v s)),
             trace := s.trace ++ sentEvents s.params.tD s.params.ackPollBudget v (sentResult v s) } := by
  rw [sendIgnored, ignAck_eq, sentResult]
  generalize ackResult (callSendByte v s) = a
  simp [callSendByte_eq, sentEvents]
  cases s.protoViol <;> cases s.busState <;> simp

/-- The state in which a transaction sends its first address byte. -/
def opened (s : State) : State := callStart (s.setIgnNack false)

/-- How the address phase of a transaction ends (R97). -/
def addressResult (dev : DevAddr) (s : State) : AckResult := sentResult (addrByte dev false) (opened s)

/-- The address phase ends as the budget allows. -/
theorem addressResult_possible (dev : DevAddr) (s : State) :
    AckResult.Possible s.params.ackPollBudget (addressResult dev s) := by
  have h := sentResult_possible (addrByte dev false) (opened s)
  rwa [show (opened s).params = s.params by simp [opened, callStart_eq]] at h

/-- An address byte's bit 0 is the direction (00_scope.md R14). -/
theorem addrByte_bit0 (dev : DevAddr) (rw : Bit) : (addrByte dev rw).getLsbD 0 = rw := by
  rw [addrByte, BitVec.getLsbD_append]
  cases rw <;> simp

/-- The state a transaction is in when its address phase has been acknowledged. -/
def acknowledged (dev : DevAddr) (s : State) : State :=
  { s with protoViol := s.protoViol || s.sdaDir == .input, ignNack := false, busState := .started,
           sdaDir := .output, sclOut := .val false, sdaOut := .val false,
           env := s.env.drop (samplesTaken s.params.ackPollBudget (addressResult dev s)),
           trace := s.trace ++ startEvents s.params.tD
             ++ sentEvents s.params.tD s.params.ackPollBudget (addrByte dev false) (addressResult dev s) }

/-- The state at the end of an aborted transaction (R97). -/
def aborted (dev : DevAddr) (s : State) : State :=
  { s with protoViol := s.protoViol || s.sdaDir == .input, ignNack := false, busState := .idle, result := .ackTimeout,
           sdaDir := .output, sclOut := .val true, sdaOut := .val true, env := s.env.drop s.params.ackPollBudget,
           trace := s.trace ++ abortedEvents s.params dev }

/-- The checked address phase (R97): on an acknowledge the rest of the transaction, on a timeout the abort. -/
theorem checkedAddress_eq (dev : DevAddr) (rest : State → State) (s : State) : checkedAddress dev rest s =
    if (addressResult dev s).timedOut then aborted dev s else rest (acknowledged dev s) := by
  rw [checkedAddress, waitAck_eq, acknowledged, addressResult, sentResult, opened]
  generalize ackResult (callSendByte (addrByte dev false) (callStart (s.setIgnNack false))) = a
  cases a with
  | timeout =>
    cases ha : s.params.abortStop2 <;>
      simp [callSendByte_eq, callStart_eq, callStop_eq, returned, abortTransaction, AckResult.timedOut, aborted, abortedEvents,
        State.setResult, sentEvents, samplesTaken, ha, State.setIgnNack]
  | ackAt j =>
    simp only [callSendByte_eq, addrByte_bit0]
    simp [callStart_eq, returned, AckResult.timedOut, sentEvents, samplesTaken, State.setIgnNack]

/-- The end of a transaction (R99, R107): everything it does, with SDA in output mode. -/
theorem closeTransaction_eq (s : State) (h : s.sdaDir = .output) : closeTransaction s =
    { s with sdaOut := .val true, sclOut := .val true, busState := .idle, result := .ok,
             trace := s.trace ++ stopEvents s.params.tD } := by
  simp [closeTransaction, callStop_eq, State.setResult, h]

/-- The bytes WRITE_MULTI's loop sends and how each Wait-Ack ends (R101). -/
def sentOf : Nat → Byte → State → List (Byte × AckResult)
  | 0, _, _ => []
  | n + 1, idx, s =>
    ((s.memRead idx).1, sentResult (s.memRead idx).1 (s.memRead idx).2)
      :: sentOf n (idx + 1) (sendIgnored (s.memRead idx).1 (s.memRead idx).2)

/-- As many bytes as the count. -/
theorem sentOf_length (n : Nat) (idx : Byte) (s : State) : (sentOf n idx s).length = n := by
  induction n generalizing idx s with
  | zero => rfl
  | succ n ih => simp [sentOf, ih]

/-- The fields a byte sent from BUF leaves as they are (R101). -/
theorem sendIgnored_memRead_keeps (idx : Byte) (s : State) :
    (sendIgnored (s.memRead idx).1 (s.memRead idx).2).params = s.params
    ∧ (sendIgnored (s.memRead idx).1 (s.memRead idx).2).buf = s.buf
    ∧ (sendIgnored (s.memRead idx).1 (s.memRead idx).2).sdaDir = .output := by
  simp [sendIgnored_eq]

/-- Every Wait-Ack of the loop ends as the budget allows. -/
theorem sentOf_possible (n : Nat) (idx : Byte) (s : State) :
    ∀ x ∈ sentOf n idx s, AckResult.Possible s.params.ackPollBudget x.2 := by
  induction n generalizing idx s with
  | zero => simp [sentOf]
  | succ n ih =>
    have h := sentResult_possible (s.memRead idx).1 (s.memRead idx).2
    have h2 := ih (idx + 1) (sendIgnored (s.memRead idx).1 (s.memRead idx).2)
    rw [State.memRead_params] at h
    rw [(sendIgnored_memRead_keeps idx s).1] at h2
    simp only [sentOf, List.mem_cons]
    rintro x (rfl | hx)
    · exact h
    · exact h2 x hx

/-- MemRead changes only the draw counter (R42). -/
theorem memRead_state (i : Byte) (s : State) : ∃ k, (s.memRead i).2 = { s with draws := k } := by
  simp only [State.memRead]
  cases bufGet s.buf i.toNat with
  | unspec => exact ⟨_, rfl⟩
  | val v => exact ⟨_, rfl⟩

/-- WRITE_MULTI's data loop (R101), with SDA in output mode: what it does to every field but the line latches and BUS_STATE,
which the Stop after it sets. -/
theorem sendBuf_spec (n : Nat) (idx : Byte) (s : State) (hd : s.sdaDir = .output) :
    (sendBuf n idx s).sdaDir = .output
    ∧ (sendBuf n idx s).trace = s.trace ++ writeDataEvents s.params.tD s.params.ackPollBudget (sentOf n idx s)
    ∧ (sendBuf n idx s).ignNack = (s.ignNack || ((sentOf n idx s).map Prod.snd).any AckResult.timedOut)
    ∧ (sendBuf n idx s).protoViol = (s.protoViol || (s.busState == .idle && n != 0)
        || ((sentOf n idx s).map Prod.snd).dropLast.any AckResult.timedOut)
    ∧ KeepsAllBut [.trace, .ignNack, .protoViol, .busState, .sclOut, .sdaOut, .env, .draws] s (sendBuf n idx s) := by
  induction n generalizing idx s with
  | zero =>
    refine ⟨hd, by simp [sendBuf, writeDataEvents, sentOf], by simp [sendBuf, sentOf], by simp [sendBuf, sentOf], ?_⟩
    intro f _
    cases f <;> simp [FieldName.same, sendBuf]
  | succ n ih =>
    obtain ⟨k, hk⟩ := memRead_state idx s
    have hlen := sentOf_length n (idx + 1) (sendIgnored (s.memRead idx).1 (s.memRead idx).2)
    obtain ⟨h1, h2, h3, h4, h5⟩ := ih (idx + 1) (sendIgnored (s.memRead idx).1 (s.memRead idx).2) (by rw [sendIgnored_eq])
    rw [sendBuf, sentOf]
    simp only
    generalize sentOf n (idx + 1) (sendIgnored (s.memRead idx).1 (s.memRead idx).2) = L at *
    generalize sendBuf n (idx + 1) (sendIgnored (s.memRead idx).1 (s.memRead idx).2) = t at *
    rw [sendIgnored_eq] at h2 h3 h4 h5
    generalize sentResult (s.memRead idx).1 (s.memRead idx).2 = a at *
    simp only [State.memRead_params, State.memRead_trace, State.memRead_ignNack, State.memRead_protoViol,
      State.memRead_busState, State.memRead_sdaDir, hd, output_beq_input, Bool.or_false] at h2 h3 h4
    refine ⟨h1, by simp [h2, writeDataEvents], by simp [h3, Bool.or_assoc], ?_, ?_⟩
    · rw [h4]
      cases n with
      | zero => simp [List.length_eq_zero_iff.mp hlen]
      | succ n =>
        obtain ⟨x, L', rfl⟩ := List.exists_cons_of_length_eq_add_one hlen
        cases s.busState <;> cases s.protoViol <;> cases a <;> simp [AckResult.timedOut]
    · intro f hf
      have := h5 f hf
      cases f <;> simp_all [FieldName.same]

/-- The bytes READ_MULTI's loop receives (R105). -/
def receivedOf : Nat → Byte → State → List Byte
  | 0, _, _ => []
  | n + 1, idx, s =>
    receivedByte s :: receivedOf n (idx + 1)
      ((if n = 0 then callSendNack else callSendAck) ((callRecvByte s).2.memWrite idx (receivedByte s)))

/-- As many bytes as the count. -/
theorem receivedOf_length (n : Nat) (idx : Byte) (s : State) : (receivedOf n idx s).length = n := by
  induction n generalizing idx s with
  | zero => rfl
  | succ n ih => simp [receivedOf, ih]

/-- One turn of READ_MULTI's data loop (R105): everything it does. -/
theorem recvTurn_eq (n : Nat) (idx : Byte) (s : State) :
    (if n = 0 then callSendNack else callSendAck) ((callRecvByte s).2.memWrite idx (receivedByte s)) =
    { s with protoViol := s.protoViol || s.busState == .idle, sdaDir := .output, sclOut := .val false,
             sdaOut := .val (n == 0), rxData := .val (receivedByte s), env := s.env.drop 8,
             buf := bufSet idx.toNat (receivedByte s) s.buf,
             trace := s.trace ++ recvByteEvents s.params.tD (receivedByte s)
               ++ (if n = 0 then sendNackEvents s.params.tD else sendAckEvents s.params.tD) } := by
  split <;> rename_i h <;>
    simp [callSendNack_eq, callSendAck_eq, callRecvByte_eq, State.memWrite, h]

/-- READ_MULTI's data loop (R105), from index `idx`: what it does to every field but the line latches. -/
theorem recvBuf_spec (n : Nat) (idx : Byte) (s : State) (hd : s.sdaDir = .output) (hn : idx.toNat + n ≤ 256) :
    (recvBuf n idx s).sdaDir = .output
    ∧ (recvBuf n idx s).trace = s.trace ++ readDataEvents s.params.tD (receivedOf n idx s)
    ∧ (recvBuf n idx s).protoViol = (s.protoViol || (s.busState == .idle && n != 0))
    ∧ (∀ j v, (receivedOf n idx s)[j]? = some v → bufGet (recvBuf n idx s).buf (idx.toNat + j) = .val v)
    ∧ (∀ i, i < idx.toNat ∨ idx.toNat + n ≤ i → bufGet (recvBuf n idx s).buf i = bufGet s.buf i)
    ∧ (∀ v, (receivedOf n idx s).getLast? = some v → (recvBuf n idx s).rxData = .val v)
    ∧ (recvBuf n idx s).env = s.env.drop (8 * n)
    ∧ KeepsAllBut [.trace, .protoViol, .sclOut, .sdaOut, .rxData, .buf, .env] s (recvBuf n idx s) := by
  induction n generalizing idx s with
  | zero =>
    refine ⟨hd, by simp [recvBuf, readDataEvents, receivedOf], by simp [recvBuf], by simp [receivedOf], by simp [recvBuf],
      by simp [receivedOf], by simp [recvBuf], ?_⟩
    intro f _
    cases f <;> simp [FieldName.same, recvBuf]
  | succ n ih =>
    have hlen := receivedOf_length n (idx + 1)
      ((if n = 0 then callSendNack else callSendAck) ((callRecvByte s).2.memWrite idx (receivedByte s)))
    have hrec : recvBuf (n + 1) idx s = recvBuf n (idx + 1)
        ((if n = 0 then callSendNack else callSendAck) ((callRecvByte s).2.memWrite idx (receivedByte s))) := by
      rw [recvBuf, callRecvByte_eq]
      dsimp only
      split <;> rfl
    rw [hrec, receivedOf]
    cases n with
    | zero =>
      rw [recvTurn_eq]
      refine ⟨rfl, by simp [recvBuf, receivedOf, readDataEvents], by simp [recvBuf], ?_, ?_, ?_, by simp [recvBuf], ?_⟩
      · intro j v hj
        cases j with
        | zero => simpa [recvBuf, receivedOf, bufGet_bufSet] using hj
        | succ j => simp [receivedOf] at hj
      · intro i hi
        simp only [recvBuf, bufGet_bufSet]
        rw [if_neg (by omega)]
      · intro v hv
        simpa [recvBuf, receivedOf] using hv
      · intro f hf
        cases f <;> simp_all [FieldName.same, recvBuf]
    | succ n =>
      have hidx : (idx + 1).toNat = idx.toNat + 1 := by
        rw [BitVec.toNat_add]
        have : idx.toNat + 1 < 256 := by omega
        simpa using Nat.mod_eq_of_lt this
      obtain ⟨h1, h2, h3, h4, h5, h6, h7, h8⟩ := ih (idx + 1)
        ((if n + 1 = 0 then callSendNack else callSendAck) ((callRecvByte s).2.memWrite idx (receivedByte s)))
        (by rw [recvTurn_eq]) (by omega)
      generalize receivedOf (n + 1) (idx + 1) ((if n + 1 = 0 then callSendNack else callSendAck)
        ((callRecvByte s).2.memWrite idx (receivedByte s))) = L at *
      generalize recvBuf (n + 1) (idx + 1) ((if n + 1 = 0 then callSendNack else callSendAck)
        ((callRecvByte s).2.memWrite idx (receivedByte s))) = t at *
      obtain ⟨x, L', rfl⟩ := List.exists_cons_of_length_eq_add_one hlen
      rw [recvTurn_eq] at h2 h3 h5 h7 h8
      rw [hidx] at h4 h5
      refine ⟨h1, by simp [h2, readDataEvents], ?_, ?_, ?_, ?_, ?_, ?_⟩
      · rw [h3]
        cases s.busState <;> simp
      · intro j v hj
        cases j with
        | zero =>
          rw [h5 _ (by omega)]
          simpa [bufGet_bufSet] using hj
        | succ j => simpa [Nat.add_assoc, Nat.add_comm 1 j] using h4 j v (by simpa using hj)
      · intro i hi
        rw [h5 i (by omega), bufGet_bufSet, if_neg (by omega)]
      · intro v hv
        exact h6 v (by simpa using hv)
      · simp only [h7, List.drop_drop]
        congr 1
        omega
      · intro f hf
        have := h8 f hf
        cases f <;> simp_all [FieldName.same]

end Sys2Proof.Machine
end

