-- ==== Sys2Proof/Laws/Sequencer.lean ====
section
/-! SUPPORT. That the micro-operations of each shared operation do what the operation does, and that a run of micro-operations is
a run of pin events (00_scope.md R12). -/

namespace Sys2Proof.Machine

/-- Micro-operation by micro-operation, an expansion in one state leads to what is left of it in another. -/
inductive Leads : List Micro → State → List Micro → State → Prop
  | refl (q : List Micro) (s : State) : Leads q s q s
  | step (m : Micro) (q q' : List Micro) (s s' : State) (h : Leads (m.run q s).1 (m.run q s).2 q' s') : Leads (m :: q) s q' s'

/-- One run of micro-operations after another. -/
theorem Leads.trans {q₁ q₂ q₃ : List Micro} {s₁ s₂ s₃ : State} (h : Leads q₁ s₁ q₂ s₂) (h' : Leads q₂ s₂ q₃ s₃) :
    Leads q₁ s₁ q₃ s₃ := by
  induction h with
  | refl => exact h'
  | step m q _ s _ _ ih => exact .step m q _ s _ (ih h')

/-- Further events after further events. -/
theorem Engine.finish_add (n m : Nat) (e : Engine) : e.finish (n + m) = (e.finish n).finish m := by
  induction n generalizing e with
  | zero => rw [Nat.zero_add]; rfl
  | succ n ih => rw [Nat.succ_add]; exact ih e.event

/-- An engine that has ended its command stays there. -/
theorem Engine.finish_succ (n : Nat) (e : Engine) (t : State) (h : e.finish n = ⟨t, []⟩) : e.finish (n + 1) = ⟨t, []⟩ := by
  rw [Engine.finish_add, h]
  rfl

/-- An expansion that runs to its end micro-operation by micro-operation runs to the same end event by event, and it does so too
after the writes at its head have settled. -/
theorem Leads.finish {q q' : List Micro} {s t : State} (h : Leads q s q' t) (hq : q' = []) :
    (∃ n, (⟨s, q⟩ : Engine).finish n = ⟨t, []⟩) ∧ ∃ n, (settle q s).finish n = ⟨t, []⟩ := by
  induction h with
  | refl q s =>
    subst hq
    exact ⟨⟨0, rfl⟩, 0, rfl⟩
  | step m q q' s t h ih =>
    obtain ⟨⟨n, hn⟩, k, hk⟩ := ih hq
    cases m with
    | before w => exact ⟨⟨n + 1, (⟨w.apply s, q⟩ : Engine).finish_succ n t hn⟩, n + 1, (⟨w.apply s, q⟩ : Engine).finish_succ n t hn⟩
    | after w => exact ⟨⟨n + 1, (⟨w.apply s, q⟩ : Engine).finish_succ n t hn⟩, k, hk⟩
    | cfgScl => exact ⟨⟨k + 1, hk⟩, k + 1, hk⟩
    | cfgSda out => exact ⟨⟨k + 1, hk⟩, k + 1, hk⟩
    | drvScl l => exact ⟨⟨k + 1, hk⟩, k + 1, hk⟩
    | drvSda l => exact ⟨⟨k + 1, hk⟩, k + 1, hk⟩
    | wait => exact ⟨⟨k + 1, hk⟩, k + 1, hk⟩
    | sampleLine => exact ⟨⟨k + 1, hk⟩, k + 1, hk⟩
    | sampleBit n rcv dest => exact ⟨⟨k + 1, hk⟩, k + 1, hk⟩
    | samplePoll left use => exact ⟨⟨k + 1, hk⟩, k + 1, hk⟩
    | sendFrom idx => exact ⟨⟨k + 1, hk⟩, k + 1, hk⟩

/-! ### What no micro-operation touches -/

/-- The fields no micro-operation changes: the parameters, and what the host port holds (20_memory.md R47). -/
structure SameHost (s t : State) : Prop where
  params : t.params = s.params
  pending : t.pending = s.pending
  replies : t.replies = s.replies

theorem SameHost.refl (s : State) : SameHost s s := ⟨rfl, rfl, rfl⟩

theorem SameHost.trans {s t u : State} (h : SameHost s t) (h' : SameHost t u) : SameHost s u :=
  ⟨h'.params.trans h.params, h'.pending.trans h.pending, h'.replies.trans h.replies⟩

/-- A write beside an event records no event. -/
theorem Write.apply_keeps (w : Write) (s : State) : SameHost s (w.apply s) ∧ (w.apply s).trace = s.trace := by
  cases w <;> exact ⟨⟨rfl, rfl, rfl⟩, rfl⟩

/-- A micro-operation. -/
theorem Micro.run_keeps (m : Micro) (q : List Micro) (s : State) : SameHost s (m.run q s).2 := by
  cases m with
  | before w => exact (w.apply_keeps s).1
  | after w => exact (w.apply_keeps s).1
  | cfgSda out => cases out <;> exact ⟨rfl, rfl, rfl⟩
  | sendFrom i =>
    obtain ⟨k, hk⟩ := memRead_state i s
    simp only [Micro.run, hk]
    exact ⟨rfl, rfl, rfl⟩
  | _ => exact ⟨rfl, rfl, rfl⟩

/-- The writes after an event. -/
theorem settle_keeps (q : List Micro) (s : State) : SameHost s (settle q s).state ∧ (settle q s).state.trace = s.trace := by
  fun_induction settle q s with
  | case1 w rest s ih =>
    obtain ⟨h, ht⟩ := w.apply_keeps s
    exact ⟨h.trans ih.1, ih.2.trans ht⟩
  | case2 => exact ⟨.refl _, rfl⟩

/-- A pin event and its writes. -/
theorem nextEvent_keeps (q : List Micro) (s : State) : SameHost s (nextEvent q s).state := by
  fun_induction nextEvent q s with
  | case1 => exact .refl _
  | case2 w rest s ih => exact (w.apply_keeps s).1.trans ih
  | case3 w rest s ih => exact (w.apply_keeps s).1.trans ih
  | case4 m rest s _ _ => exact (m.run_keeps rest s).trans (settle_keeps _ _).1

/-! ### The primitives -/

/-- START. -/
theorem leads_start (q : List Micro) (s : State) : Leads (startOps ++ q) s q (callStart s) := by
  iterate 10 refine .step _ _ _ _ _ ?_
  exact .refl _ _

/-- STOP. -/
theorem leads_stop (q : List Micro) (s : State) : Leads (stopOps ++ q) s q (callStop s) := by
  iterate 10 refine .step _ _ _ _ _ ?_
  exact .refl _ _

/-- SEND_ACK. -/
theorem leads_sendAck (q : List Micro) (s : State) : Leads (sendAckOps ++ q) s q (callSendAck s) := by
  iterate 7 refine .step _ _ _ _ _ ?_
  exact .refl _ _

/-- SEND_NACK. -/
theorem leads_sendNack (q : List Micro) (s : State) : Leads (sendNackOps ++ q) s q (callSendNack s) := by
  iterate 7 refine .step _ _ _ _ _ ?_
  exact .refl _ _

/-- The bit loop of SEND_BYTE. -/
theorem leads_shiftOut (n : Nat) (shift : Byte) (q : List Micro) (s : State) :
    Leads (shiftOutOps n shift ++ q) s q (shiftOut n shift s) := by
  induction n generalizing shift s with
  | zero => exact .refl _ _
  | succ n ih =>
    rw [shiftOutOps, List.append_assoc]
    iterate 6 refine .step _ _ _ _ _ ?_
    exact ih _ _

/-- The events of SEND_BYTE, its check made. -/
theorem leads_byteOut (v : Byte) (q : List Micro) (s : State) :
    Leads (byteOutOps v ++ q) s q ((shiftOut 8 v s).sclEdge false) := by
  rw [byteOutOps, List.append_assoc]
  refine (leads_shiftOut 8 v _ s).trans ?_
  iterate 2 refine .step _ _ _ _ _ ?_
  exact .refl _ _

/-- SEND_BYTE. -/
theorem leads_sendByte (v : Byte) (q : List Micro) (s : State) : Leads (sendByteOps v ++ q) s q (callSendByte v s) :=
  .step _ _ _ _ _ (leads_byteOut v q _)

/-- SEND_BYTE of a byte of BUF. -/
theorem leads_sendFrom (idx : Byte) (q : List Micro) (s : State) :
    Leads (.sendFrom idx :: q) s q (callSendByte (s.memRead idx).1 (s.memRead idx).2) := by
  refine .step _ _ _ _ _ ?_
  rw [show (Micro.run (.sendFrom idx) q s).1 = .wait :: .drvSda (topBit (s.memRead idx).1) :: .wait :: .drvScl true :: .wait
    :: (shiftOutOps 7 (shiftLeft (s.memRead idx).1) ++ (sclOps false ++ q)) from rfl]
  iterate 5 refine .step _ _ _ _ _ ?_
  refine (leads_shiftOut 7 _ _ _).trans ?_
  iterate 2 refine .step _ _ _ _ _ ?_
  exact .refl _ _

/-- The index of BUF the byte goes to, if any (42_transactions.md R105). -/
def storeAt (dest : Option Byte) (v : Byte) (s : State) : State :=
  match dest with
  | some i => s.memWrite i v
  | none => s

/-- The bit loop of RECV_BYTE and what follows it. -/
theorem leads_bitIn (n : Nat) (rcv : Byte) (dest : Option Byte) (q : List Micro) (s : State) :
    Leads (bitInOps n rcv dest ++ q) s q
      (storeAt dest (shiftIn n rcv s).1
        ((((shiftIn n rcv s).2.sclEdge false).sdaToOutput).setRxData (shiftIn n rcv s).1)) := by
  induction n generalizing rcv s with
  | zero =>
    cases dest with
    | none =>
      iterate 5 refine .step _ _ _ _ _ ?_
      exact .refl _ _
    | some i =>
      iterate 6 refine .step _ _ _ _ _ ?_
      exact .refl _ _
  | succ n ih =>
    iterate 5 refine .step _ _ _ _ _ ?_
    exact ih _ _

/-- RECV_BYTE, and the byte's way into BUF. -/
theorem leads_recvByte (dest : Option Byte) (q : List Micro) (s : State) :
    Leads (recvByteOps dest ++ q) s q (storeAt dest (callRecvByte s).1 (callRecvByte s).2) := by
  rw [recvByteOps, List.append_assoc]
  iterate 3 refine .step _ _ _ _ _ ?_
  exact leads_bitIn 8 0 dest q _

/-! ### Wait-Acks -/

/-- What is left after the acknowledge or the timeout of a Wait-Ack, its events done. -/
def leftAfter (p : Params) (use : AckUse) (rest : List Micro) : Ack → List Micro
  | .ack =>
    match use with
    | .command => .after (.result .ok) :: rest
    | .checked => rest
    | .ignored => rest
  | .timeout =>
    match use with
    | .command => .after (.result .ackTimeout) :: rest
    | .checked => (if p.abortStop2 then stopOps else []) ++ [.after (.result .ackTimeout)]
    | .ignored => .after (.ignNack true) :: rest

/-- The poll loop. -/
theorem leads_poll (use : AckUse) (rest : List Micro) (n : Nat) (s : State) :
    Leads (pollOps s.params use rest n) s (leftAfter s.params use rest (pollAck n s).1) (pollAck n s).2 := by
  induction n generalizing s with
  | zero =>
    show Leads (.cfgSda true :: .wait :: (stopOps ++ leftAfter s.params use rest .timeout)) s
      (leftAfter s.params use rest .timeout) _
    iterate 2 refine .step _ _ _ _ _ ?_
    exact leads_stop _ _
  | succ n ih =>
    refine .step _ _ _ _ _ ?_
    simp only [Micro.run]
    rw [pollAck, State.smp_eq]
    cases h : s.envAnswer with
    | false =>
      simp only [Bool.false_eq_true, if_false, ackOps]
      iterate 4 refine .step _ _ _ _ _ ?_
      cases use <;> exact .refl _ _
    | true =>
      simp only [if_true]
      refine .step _ _ _ _ _ ?_
      exact ih s.afterSmp.wait

/-- A Wait-Ack. -/
theorem leads_waitAck (use : AckUse) (rest : List Micro) (s : State) :
    Leads (waitAckOps s.params use rest) s (leftAfter s.params use rest (waitAck s).1) (waitAck s).2 := by
  iterate 5 refine .step _ _ _ _ _ ?_
  exact leads_poll use rest s.params.ackPollBudget (pollStart s)

/-- An ignored Wait-Ack (42_transactions.md R98). -/
theorem leads_ignAck (rest : List Micro) (s : State) : Leads (waitAckOps s.params .ignored rest) s rest (ignAck s) := by
  have h := leads_waitAck .ignored rest s
  rw [ignAck]
  rcases hw : waitAck s with ⟨_ | _, t⟩ <;> rw [hw] at h
  · exact h
  · exact h.trans (.step _ _ _ _ _ (.refl _ _))

/-! ### The transactions: the parameters stand as they are, so every Wait-Ack of the expansion has the budget it was built for -/

theorem callSendByte_params (v : Byte) (s : State) : (callSendByte v s).params = s.params := by rw [callSendByte_eq]

theorem callStart_params (s : State) : (callStart s).params = s.params := by rw [callStart_eq]

theorem sendIgnored_params (v : Byte) (s : State) : (sendIgnored v s).params = s.params := by rw [sendIgnored_eq]

/-- A byte and its ignored Wait-Ack. -/
theorem leads_sendIgnored (p : Params) (v : Byte) (rest : List Micro) (s : State) (hp : s.params = p) :
    Leads (sendIgnoredOps p v rest) s rest (sendIgnored v s) := by
  refine (leads_sendByte v _ s).trans ?_
  rw [← hp, ← callSendByte_params v s]
  exact leads_ignAck rest _

/-- The data loop of WRITE_MULTI. -/
theorem leads_sendBuf (p : Params) (rest : List Micro) (n : Nat) (idx : Byte) (s : State) (hp : s.params = p) :
    Leads (sendBufOps p rest n idx) s rest (sendBuf n idx s) := by
  induction n generalizing idx s with
  | zero => exact .refl _ _
  | succ n ih =>
    have hp' : (callSendByte (s.memRead idx).1 (s.memRead idx).2).params = p := by simp [callSendByte_params, hp]
    refine (leads_sendFrom idx _ s).trans ?_
    rw [← hp']
    refine (leads_ignAck _ _).trans ?_
    rw [hp']
    exact ih (idx + 1) (sendIgnored (s.memRead idx).1 (s.memRead idx).2) (by simp [sendIgnored_params, hp])

/-- The data loop of READ_MULTI. -/
theorem leads_recvBuf (rest : List Micro) (n : Nat) (idx : Byte) (s : State) :
    Leads (recvBufOps rest n idx) s rest (recvBuf n idx s) := by
  induction n generalizing idx s with
  | zero => exact .refl _ _
  | succ n ih =>
    rw [recvBufOps, List.append_assoc]
    refine (leads_recvByte (some idx) _ s).trans ?_
    rw [recvBuf]
    cases n with
    | zero => exact (leads_sendNack _ _).trans (ih _ _)
    | succ n => exact (leads_sendAck _ _).trans (ih _ _)

/-- The end of a transaction. -/
theorem leads_close (s : State) : Leads closeOps s [] (closeTransaction s) :=
  (leads_stop _ s).trans (.step _ _ _ _ _ (.refl _ _))

/-- The opening of a transaction with a checked address phase, and what follows it. -/
theorem leads_checkedAddress (p : Params) (dev : DevAddr) (rest : List Micro) (f : State → State) (s : State) (hp : s.params = p)
    (hf : ∀ t, t.params = p → Leads rest t [] (f t)) : Leads (checkedAddressOps p dev rest) s [] (checkedAddress dev f s) := by
  refine .step _ _ _ _ _ ?_
  show Leads (startOps ++ sendByteOps (addrByte dev false) ++ waitAckOps p .checked rest) (s.setIgnNack false) _ _
  rw [List.append_assoc]
  refine (leads_start _ _).trans ((leads_sendByte _ _ _).trans ?_)
  have hp' : (callSendByte (addrByte dev false) (callStart (s.setIgnNack false))).params = p := by
    simp [callSendByte_params, callStart_params, hp]
  rw [checkedAddress, ← hp']
  refine (leads_waitAck .checked rest _).trans ?_
  have hw : (waitAck (callSendByte (addrByte dev false) (callStart (s.setIgnNack false)))).2.params
      = (callSendByte (addrByte dev false) (callStart (s.setIgnNack false))).params := by rw [waitAck_eq]
  rcases h : waitAck (callSendByte (addrByte dev false) (callStart (s.setIgnNack false))) with ⟨_ | _, t⟩ <;> rw [h] at hw
  · exact hf t (hw.trans hp')
  · simp only [leftAfter, abortTransaction, ← hw]
    cases t.params.abortStop2
    · exact .step _ _ _ _ _ (.refl _ _)
    · exact (leads_stop _ _).trans (.step _ _ _ _ _ (.refl _ _))

/-- The micro-operations of every command do what the command does (R12). -/
theorem leads_microOps (i : Instr) (s : State) : Leads (microOps s.params i) s [] (expansion i s) := by
  have last : ∀ (w : Write) (t : State), Leads [.after w] t [] (w.apply t) := fun _ _ => .step _ _ _ _ _ (.refl _ _)
  cases i with
  | init =>
    iterate 4 refine .step _ _ _ _ _ ?_
    exact .refl _ _
  | setDir out =>
    iterate 2 refine .step _ _ _ _ _ ?_
    exact .refl _ _
  | wrScl l =>
    iterate 2 refine .step _ _ _ _ _ ?_
    exact .refl _ _
  | wrSda l =>
    iterate 2 refine .step _ _ _ _ _ ?_
    exact .refl _ _
  | rdSda =>
    iterate 2 refine .step _ _ _ _ _ ?_
    exact .refl _ _
  | start => exact (leads_start _ s).trans (last _ _)
  | stop => exact leads_close s
  | sendByte v => exact (leads_sendByte v _ s).trans (last _ _)
  | recvByte => exact (leads_recvByte none _ s).trans (last _ _)
  | waitAck =>
    refine (leads_waitAck .command [] s).trans ?_
    rw [expansion]
    rcases waitAck s with ⟨_ | _, t⟩
    · exact last _ _
    · exact last _ _
  | sendAck => exact (leads_sendAck _ s).trans (last _ _)
  | sendNack => exact (leads_sendNack _ s).trans (last _ _)
  | writeOne dev reg val =>
    refine leads_checkedAddress _ dev _ _ s rfl fun t ht => ?_
    refine (leads_sendIgnored _ reg _ t ht).trans ((leads_sendIgnored _ val _ _ ?_).trans (leads_close _))
    rw [sendIgnored_params, ht]
  | writeMulti dev reg n =>
    refine leads_checkedAddress _ dev _ _ s rfl fun t ht => ?_
    refine (leads_sendIgnored _ reg _ t ht).trans ((leads_sendBuf _ _ _ _ _ ?_).trans (leads_close _))
    rw [sendIgnored_params, ht]
  | readOne dev reg =>
    refine .step _ _ _ _ _ ?_
    refine (leads_start _ (s.setIgnNack false)).trans ?_
    have h (t : State) (v : Byte) (rest : List Micro) (ht : t.params = s.params) :=
      leads_sendIgnored s.params v rest t ht
    refine (h _ _ _ ?_).trans ((h _ _ _ ?_).trans ?_)
    · simp [callStart_params]
    · simp [sendIgnored_params, callStart_params]
    refine (leads_start _ _).trans ((h _ _ _ ?_).trans ?_)
    · simp [sendIgnored_params, callStart_params]
    · rw [List.append_assoc]
      exact (leads_recvByte none _ _).trans ((leads_sendNack _ _).trans (leads_close _))
  | readMulti dev reg n =>
    refine leads_checkedAddress _ dev _ _ s rfl fun t ht => ?_
    refine (leads_sendIgnored _ reg _ t ht).trans ((leads_start _ _).trans ?_)
    refine (leads_sendIgnored _ _ _ _ ?_).trans ((leads_recvBuf _ _ _ _).trans (leads_close _))
    rw [callStart_params, sendIgnored_params, ht]

end Sys2Proof.Machine
end

