-- ==== Sys2Proof/Tests/Slice0.lean ====
section
/-! SUPPORT. Tests of the model against the words and vectors the spec gives (95_test_vectors.md, and the files named), and a
witness for the hypotheses of every statement. -/

namespace Sys2Proof.Tests

open Sys2Proof.Machine Sys2Proof.Safety

/-! ### Ill-formed commands -/

/-- 30_encoding.md R66: READ_MULTI takes no count of 0, and takes 1 and 255. -/
theorem test_wellFormed_readMulti :
    ¬ (Instr.readMulti 0x3C 0 0).WellFormed ∧ (Instr.readMulti 0x3C 0 1).WellFormed ∧ (Instr.readMulti 0x3C 0 255).WellFormed := by
  decide

/-- 30_encoding.md R57: WRITE_MULTI takes a count of 0. -/
theorem test_wellFormed_writeMulti : (Instr.writeMulti 0x68 0x6B 0).WellFormed := by decide

/-! ### Decoding: every command's word, written out from the formats of 30_encoding.md R58 to R62, opcode field first -/

theorem test_decode_init : decode 0b00000001_000000000000000000000000 = .command .init := by decide

theorem test_decode_setDir : decode 0b00010000_00000000000000000000000_1 = .command (.setDir true) := by decide

theorem test_decode_wrScl : decode 0b00010001_00000000000000000000000_1 = .command (.wrScl true) := by decide

theorem test_decode_wrSda : decode 0b00010010_00000000000000000000000_0 = .command (.wrSda false) := by decide

theorem test_decode_rdSda : decode 0b00010011_000000000000000000000000 = .command .rdSda := by decide

theorem test_decode_start : decode 0b00100000_000000000000000000000000 = .command .start := by decide

theorem test_decode_stop : decode 0b00100001_000000000000000000000000 = .command .stop := by decide

/-- The byte 0xA5 in bits 7:0 (R60). -/
theorem test_decode_sendByte : decode 0b00100010_0000000000000000_10100101 = .command (.sendByte 0xA5) := by decide

theorem test_decode_recvByte : decode 0b00100011_000000000000000000000000 = .command .recvByte := by decide

theorem test_decode_waitAck : decode 0b00100100_000000000000000000000000 = .command .waitAck := by decide

theorem test_decode_sendAck : decode 0b00100101_000000000000000000000000 = .command .sendAck := by decide

theorem test_decode_sendNack : decode 0b00100110_000000000000000000000000 = .command .sendNack := by decide

/-- Device 0x50, register 0x10, value 0x7F (R61). -/
theorem test_decode_writeOne :
    decode 0b00110000_0_1010000_00010000_01111111 = .command (.writeOne 0x50 0x10 0x7F) := by decide

/-- Device 0x68, register 0x6B, count 2. -/
theorem test_decode_writeMulti :
    decode 0b00110001_0_1101000_01101011_00000010 = .command (.writeMulti 0x68 0x6B 2) := by decide

/-- Device 0x50, register 0x10, no value (R65). -/
theorem test_decode_readOne : decode 0b00110010_0_1010000_00010000_00000000 = .command (.readOne 0x50 0x10) := by decide

/-- Device 0x3C, register 0, count 3. -/
theorem test_decode_readMulti : decode 0b00110011_0_0111100_00000000_00000011 = .command (.readMulti 0x3C 0 3) := by decide

/-- The illegal words of 95_test_vectors.md §2.2. -/
theorem test_decode_illegal : ([0x00000000, 0x00FFFFFF, 0x02000000, 0x34000000, 0xFF000000, 0x01000001, 0x13000001, 0x20000001,
    0x26000100, 0x10000002, 0x11000002, 0x220001A5, 0x30800000, 0x31FF0000, 0x32501001, 0x333C0000, 0x33000000] : List Word).map
    (fun w => (decode w).instr?) = List.replicate 17 none := by
  decide

/-! ### States the tests start from -/

/-- After INIT (70_reset_and_hazards.md R129), the environment's answers to come given, the trace left empty. -/
def ready (answers : List Bit) : State :=
  { State.reset with initDone := true, sclCfg := .pp, sdaDir := .output, env := answers }

/-- After START: vector S1. -/
def started (answers : List Bit) : State :=
  { ready answers with sclOut := .val false, sdaOut := .val false, busState := .started }

/-- After STOP: vector S2. -/
def stopped (answers : List Bit) : State :=
  { ready answers with sclOut := .val true, sdaOut := .val true }

/-- After SET_DIR in: vector V7. -/
def inputReady (answers : List Bit) : State := { ready answers with sdaDir := .input }

/-- What `f` reads in the next state. -/
def after {α : Type} (o : Host.Outcome State Fault Refusal) (f : State → α) : Option α :=
  match o with
  | .next t => some (f t)
  | .fault _ => none
  | .refused _ => none

/-! ### One step of each command -/

/-- Vector V2: `P o`. -/
theorem test_init : after (exec .init State.reset) (fun t => (t.trace, t.sclCfg, t.sdaDir, t.initDone))
    = some ([.cfg .scl .pp, .cfg .sda .od], .pp, .output, true) := by decide

/-- Vector V3: F_REINIT and nothing else. -/
theorem test_init_again : after (exec .init (ready [])) (fun t => (t.fReinit, t.trace)) = some (true, []) := by decide

/-- Vector V7: `i`. -/
theorem test_setDir_in : after (exec (.setDir false) (ready [])) (fun t => (t.trace, t.sdaDir))
    = some ([.cfg .sda .ipu], .input) := by decide

/-- Vector V8: `o`. -/
theorem test_setDir_out : after (exec (.setDir true) (inputReady [])) (fun t => (t.trace, t.sdaDir))
    = some ([.cfg .sda .od], .output) := by decide

/-- Vector V9: `c1`. -/
theorem test_wrScl : after (exec (.wrScl true) (ready [])) (fun t => (t.trace, t.sclOut, t.sdaOut))
    = some ([.drv .scl true], .val true, .unspec) := by decide

/-- Vector V14: in input mode the drive reaches only the latch. -/
theorem test_wrSda_input : after (exec (.wrSda false) (inputReady [])) (fun t => (t.trace, t.sdaOut, t.sdaDir))
    = some ([.drv .sda false], .val false, .input) := by decide

/-- Vector V12: the sample is 0. -/
theorem test_rdSda : after (exec .rdSda (inputReady [false])) (fun t => (t.trace, t.sample, t.env))
    = some ([.smp false], .val false, []) := by decide

/-- Vector V11: F_RD_OUT in output mode. -/
theorem test_rdSda_output : after (exec .rdSda (ready [false])) (fun t => (t.fRdOut, t.trace, t.sample))
    = some (true, [], .unspec) := by decide

/-- Vector S1: `d1 w c1 w d0 w c0 w`. -/
theorem test_start : after (exec .start (ready [])) (fun t => (t.trace, t.busState))
    = some ([.drv .sda true, .wait 1, .drv .scl true, .wait 1, .drv .sda false, .wait 1, .drv .scl false, .wait 1], .started) := by
  decide

/-- Vector S1: the start edge is at 5. -/
theorem test_start_edge : after (exec .start (ready [])) (fun t => sureEdges 1 ((ready []).pins.edgesAlong t.trace))
    = some [(5, .start)] := by decide

/-- Vector S2: `c0 w d0 w c1 w d1 w`. -/
theorem test_stop : after (exec .stop (started [])) (fun t => (t.trace, t.busState))
    = some ([.drv .scl false, .wait 1, .drv .sda false, .wait 1, .drv .scl true, .wait 1, .drv .sda true, .wait 1], .idle) := by
  decide

/-- Vector S5: from IDLE with UNSPEC latches the stop edge is at 7. -/
theorem test_stop_edge : after (exec .stop (ready [])) (fun t => sureEdges 1 ((ready []).pins.edgesAlong t.trace))
    = some [(7, .stop)] := by decide

/-- The levels driven on the data line. -/
def sdaDrives : List PinEvent → List Bit
  | [] => []
  | .drv .sda l :: es => l :: sdaDrives es
  | .drv .scl _ :: es => sdaDrives es
  | .cfg .. :: es => sdaDrives es
  | .smp _ :: es => sdaDrives es
  | .wait _ :: es => sdaDrives es

/-- Worked example E1: 50 events, SDA driven with 1,0,1,0,0,1,0,1. -/
theorem test_sendByte : after (exec (.sendByte 0xA5) (started [])) (fun t => (t.trace.length, sdaDrives t.trace, t.protoViol))
    = some (50, [true, false, true, false, false, true, false, true], false) := by decide

/-- Vector S12: SDA in input mode, PROTO_VIOL and no edge. -/
theorem test_sendByte_input :
    after (exec (.sendByte 0x55) { started [] with sdaDir := .input }) (fun t => (t.protoViol, t.sclOut, t.sdaOut))
      = some (true, .val false, .val true) := by decide

/-- Vector S13: the bits of 0xA5 give RXDATA = 0xA5. -/
theorem test_recvByte :
    after (exec .recvByte (started [true, false, true, false, false, true, false, true]))
      (fun t => (t.trace.length, t.rxData, t.sdaDir)) = some (46, .val 0xA5, .output) := by decide

/-- Vector S16: from IDLE, PROTO_VIOL. -/
theorem test_recvByte_idle : after (exec .recvByte (stopped (List.replicate 8 true))) (fun t => (t.rxData, t.protoViol, t.busState))
    = some (.val 0xFF, true, .idle) := by decide

/-- Vector S18: `i w c1 w s1 w s0 o w c0 w`. -/
theorem test_waitAck : after (exec .waitAck (started [true, false])) (fun t => (t.trace, t.result))
    = some ([.cfg .sda .ipu, .wait 1, .drv .scl true, .wait 1, .smp true, .wait 1, .smp false, .cfg .sda .od, .wait 1,
        .drv .scl false, .wait 1], .ok) := by decide

/-- Vector S22: the timeout, a start edge at 15 and a stop edge at 23. -/
theorem test_waitAck_timeout :
    after (exec .waitAck (started (List.replicate 5 true)))
      (fun t => (t.trace.length, t.result, t.busState, sureEdges 1 ((started []).pins.edgesAlong t.trace)))
      = some (24, .ackTimeout, .idle, [(15, .start), (23, .stop)]) := by decide

/-- Vector S26: `d0 w c1 w c0 w`. -/
theorem test_sendAck : after (exec .sendAck (started [])) (fun t => (t.trace, t.sdaOut, t.protoViol))
    = some ([.drv .sda false, .wait 1, .drv .scl true, .wait 1, .drv .scl false, .wait 1], .val false, false) := by decide

/-- Vector S30: from IDLE, PROTO_VIOL and a start edge at 1. -/
theorem test_sendAck_idle :
    after (exec .sendAck (stopped [])) (fun t => (t.protoViol, t.busState, sureEdges 1 ((stopped []).pins.edgesAlong t.trace)))
      = some (true, .idle, [(1, .start)]) := by decide

/-- Vector S27: `d1 w c1 w c0 w`. -/
theorem test_sendNack : after (exec .sendNack (started [])) (fun t => (t.trace, t.sdaOut))
    = some ([.drv .sda true, .wait 1, .drv .scl true, .wait 1, .drv .scl false, .wait 1], .val true) := by decide

/-- Vector S29: entered with SCL high and SDA_OUT 0, a stop edge at 1. -/
theorem test_sendNack_hazard :
    after (exec .sendNack { started [] with sclOut := .val true })
      (fun t => sureEdges 1 (({ started [] with sclOut := .val true } : State).pins.edgesAlong t.trace)) = some [(1, .stop)] := by
  decide

/-- Event and Wait counts, RESULT, IGN_NACK and PROTO_VIOL: the columns of 95_test_vectors.md §2.4. -/
def columns (t : State) : Nat × Nat × Result × Bit × Bit :=
  (t.trace.length, t.trace.countP isWait, t.result, t.ignNack, t.protoViol)

/-- Vector T4: the second Wait-Ack times out. -/
theorem test_writeOne : after (exec (.writeOne 0x50 0x10 0x7F) (ready ([false] ++ List.replicate 5 true ++ [false]))) columns
    = some (208, 103, .ok, true, true) := by decide +kernel

/-- Vector T2: the abort. -/
theorem test_writeOne_abort : after (exec (.writeOne 0x50 0x10 0x7F) (ready (List.replicate 5 true))) columns
    = some (90, 45, .ackTimeout, false, false) := by decide +kernel

/-- Vector T7: two bytes from BUF. -/
theorem test_writeMulti :
    after (exec (.writeMulti 0x68 0x6B 2) { ready (List.replicate 4 false) with buf := [(0, 0x00), (1, 0x01)] })
      (fun t => (columns t, t.buf)) = some ((252, 124, .ok, false, false), [(0, 0x00), (1, 0x01)]) := by decide +kernel

/-- Vector T6: no data byte, BUF not read. -/
theorem test_writeMulti_empty : after (exec (.writeMulti 0x68 0x6B 0) (ready [false, false])) (fun t => (columns t, t.draws))
    = some ((134, 66, .ok, false, false), 0) := by decide +kernel

/-- Vector T11: RXDATA 0x7F. -/
theorem test_readOne : after (exec (.readOne 0x50 0x10) (ready (List.replicate 4 false ++ List.replicate 7 true)))
    (fun t => (columns t, t.rxData)) = some ((253, 121, .ok, false, false), .val 0x7F) := by decide +kernel

/-- Vector T12: nothing answers; the sequence runs whole. -/
theorem test_readOne_none : after (exec (.readOne 0x50 0x10) (ready (List.replicate 23 true))) (fun t => (columns t, t.rxData))
    = some ((298, 145, .ok, true, true), .val 0xFF) := by decide +kernel

/-- Vector T15: one byte, 0x42, into BUF[0]. -/
theorem test_readMulti :
    after (exec (.readMulti 0x3C 0 1) (ready (List.replicate 3 false ++ [false, true, false, false, false, false, true, false])))
      (fun t => (t.trace.length, t.result, t.buf, t.rxData)) = some (253, .ok, [(0, 0x42)], .val 0x42) := by decide +kernel

/-- Vector T17: the abort writes neither BUF nor RXDATA. -/
theorem test_readMulti_abort : after (exec (.readMulti 0x3C 0 3) (ready (List.replicate 5 true)))
    (fun t => (t.trace.length, t.result, t.buf, t.rxData)) = some (90, .ackTimeout, [], .unspec) := by decide +kernel

/-! ### The host port -/

/-- 20_memory.md R39: the first and the last byte of BUF are at 0x100 and 0x1FF; the byte below is no move. -/
theorem test_hostMove_buf : hostMove (.read .byte 0x100) = some (.readBuf 0) ∧ hostMove (.read .byte 0x1FF) = some (.readBuf 255)
    ∧ hostMove (.read .byte 0x0FF) = none ∧ hostMove (.read .half 0x100) = none := by decide

/-- A word placed by `withFetchWord` is the next step's command: START before INIT is refused (vector V4). -/
theorem test_withFetchWord : after (step (State.reset.withFetchWord 32 0x20000000)) (fun t => (t.fNoInit, t.trace, t.pending))
    = some (true, [], []) := by decide

/-- The same after INIT: START runs. -/
theorem test_withFetchWord_runs : after (step ((ready []).withFetchWord 32 0x20000000)) (fun t => (t.busState, t.trace.length))
    = some (.started, 8) := by decide

/-! ### A witness for the hypotheses of every statement that has some -/

theorem witness_DecodeOfEncode : (Instr.readMulti 0x7F 0xFF 255).WellFormed ∧ (Instr.writeOne 0 0 0).WellFormed := by decide

theorem witness_EncodeOfDecode : decode 0x333C0003 = .command (.readMulti 0x3C 0 3) := by decide

theorem witness_MatchMaskTableIsExact : (⟨"READ_MULTI", 0x33000000, 0xFF800000, true⟩ : OpRow) ∈ opTable := by decide

/-- One word for each reason of R67, and a state in which one of them is the next access. -/
theorem witness_IllegalWordsAreRefused : BreaksTheEncoding 0x00FFFFFF ∧ BreaksTheEncoding 0x01000001 ∧ BreaksTheEncoding 0x10000002
    ∧ BreaksTheEncoding 0x22000100 ∧ BreaksTheEncoding 0x30800000 ∧ BreaksTheEncoding 0x32000001 ∧ BreaksTheEncoding 0x33000000
    ∧ (State.reset.thenCommand 0x00FFFFFF).pending = [.write .word 0x000 0x00FFFFFF] :=
  ⟨.inl (by decide), .inr (.inl (by decide)), .inr (.inr (.inl (by decide))), .inr (.inr (.inr (.inl (by decide)))),
    .inr (.inr (.inr (.inr (.inl (by decide))))), .inr (.inr (.inr (.inr (.inr (.inl (by decide)))))),
    .inr (.inr (.inr (.inr (.inr (.inr (by decide)))))), by decide⟩

theorem witness_TransactionWordFormula : encode (.readOne 0x50 0x10) = 0x32501000 := by decide

theorem witness_AssembledWordsAreLegal : assembleWord "READ_MULTI 0x3C, 0x00, 3".toList = some 0x333C0003 := by decide

theorem witness_StepRunsTheDecodedCommand : (State.reset.thenCommand 0x01000000).pending = [.write .word 0x000 0x01000000]
    ∧ decode 0x01000000 = .command .init := by decide

theorem witness_WaitingStepKeepsEverything : State.reset.pending = [] := by decide

/-- Listed accesses at the ends of their ranges, and one that is not listed. -/
theorem witness_OnlyListedAccessesAreServed : Listed (.read .byte 0x100) ∧ Listed (.write .byte 0x1FF 0) ∧ Listed (.read .word 0x004)
    ∧ Listed (.write .word 0x008 0) ∧ Listed (.write .word 0x000 0) ∧ ¬ Listed (.read .word 0x000) := by
  refine ⟨?_, ?_, ?_, ?_, ?_, ?_⟩
  · exact .inr (.inr (.inr (.inl ⟨0, rfl⟩)))
  · exact .inr (.inr (.inr (.inr (.inl ⟨255, 0, rfl⟩))))
  · exact .inr (.inl rfl)
  · exact .inr (.inr (.inr (.inr (.inr (.inr ⟨0, rfl⟩)))))
  · exact .inl ⟨0, rfl⟩
  · simp [Listed]

/-- The host's next access, on any state. -/
def asked (a : HostAccess) (s : State) : State := { s with pending := [a] }

theorem witness_HostWriteSetsOneBufByte : (asked (.write .byte 0x1FF 0xAB) State.reset).pending
    = [.write .byte (BitVec.ofNat 9 (0x100 + (255 : Byte).toNat)) 0xAB] := by decide

/-- BUF[0] written, and BUF[255] not. -/
theorem witness_HostReadReturnsBufByte : (asked (.read .byte 0x100) State.reset).pending
      = [.read .byte (BitVec.ofNat 9 (0x100 + (0 : Byte).toNat))]
    ∧ bufGet [(0, 0x11)] 0 = .val 0x11 ∧ bufGet [(0, 0x11)] 255 = .unspec := by decide

/-- The three UNSPEC fields at reset, and the three of them set. -/
theorem witness_StatusReadsAsLaidOut : (asked (.read .word 0x004) State.reset).pending = [.read .word 0x004]
    ∧ State.reset.sclOut = .unspec ∧ State.reset.sdaOut = .unspec ∧ State.reset.sample = .unspec
    ∧ ({ stopped [] with sample := .val false } : State).sclOut = .val true ∧ (stopped []).sdaOut = .val true := by decide

theorem witness_RxDataReadAndIgnoredWrites : (asked (.read .word 0x008) State.reset).pending = [.read .word 0x008]
    ∧ State.reset.rxData = .unspec ∧ ({ State.reset with rxData := .val 0xFF } : State).rxData = .val 0xFF
    ∧ (asked (.write .word 0x004 1) State.reset).pending = [.write .word 0x004 1]
    ∧ (asked (.write .word 0x008 1) State.reset).pending = [.write .word 0x008 1] := by decide

theorem witness_InitCreatesTheHandle : State.reset.initDone = false ∧ (ready []).initDone = true := by decide

/-- A state and a word for each check of R109, and one that passes them all. -/
theorem witness_AcceptanceChecksInOrder :
    decode 0 = .illegal .unassignedOpcode
    ∧ (decode 0x01000000 = .command .init ∧ (ready []).initDone = true)
    ∧ (decode 0x20000000 = .command .start ∧ State.reset.initDone = false)
    ∧ (decode 0x13000000 = .command .rdSda ∧ (ready []).initDone = true ∧ (ready []).sdaDir = .output)
    ∧ (inputReady []).sdaDir ≠ .output ∧ (State.reset.thenCommand 0).pending = [.write .word 0x000 0] := by decide

theorem witness_SetDirEffect : (inputReady []).initDone = true
    ∧ ({ inputReady [] with sdaOut := .val false, sclOut := .val true } : State).sdaDir = .input := by decide

theorem witness_WrSclEffect : (ready []).initDone = true := by decide

/-- Input mode; output mode with SCL high and SDA at the other level. -/
theorem witness_WrSdaEffect : (inputReady []).initDone = true ∧ (inputReady []).sdaDir = .input
    ∧ (stopped []).sdaDir = .output ∧ (stopped []).sclOut = .val true ∧ (stopped []).sdaOut = .val (!false) := by decide

/-- Output mode, and input mode with and without an answer held. -/
theorem witness_RdSdaEffect : (ready []).initDone = true ∧ (ready []).sdaDir = .output ∧ (inputReady [true]).sdaDir ≠ .output
    ∧ (inputReady [true]).env = [true] ∧ (inputReady []).env = [] := by decide

/-- Output mode, with SCL high and SDA low too, and input mode. -/
theorem witness_StartEffect : (ready []).initDone = true ∧ (ready []).sdaDir = .output
    ∧ ({ started [] with sclOut := .val true } : State).sdaDir = .output ∧ (started []).sdaOut = .val false
    ∧ (inputReady []).initDone = true ∧ (inputReady []).sdaDir = .input := by decide

theorem witness_StopEffect : (started []).initDone = true ∧ (started []).sdaDir = .output := by decide

theorem witness_SendByteEffect : (started []).initDone = true := by decide

theorem witness_RecvByteEffect : (started []).initDone = true := by decide

theorem witness_ReceiveInvertsSend : (started (msbFirst 0xA5)).initDone = true
    ∧ (started (msbFirst 0xA5)).env = msbFirst 0xA5 ++ [] := by decide

/-- Both ends of a Wait-Ack. -/
theorem witness_WaitAckEffect : (started []).initDone = true ∧ after (exec .waitAck (started [false])) (·.result) = some .ok
    ∧ after (exec .waitAck (started (List.replicate 5 true))) (·.result) = some .ackTimeout := by decide

/-- The first low sample at 1, at 5, and none. -/
theorem witness_WaitAckOutcomeBySamples : (started []).initDone = true ∧ (started []).params.ackPollBudget = 5
    ∧ (started [false]).env = List.replicate (1 - 1) true ++ false :: []
    ∧ (started (List.replicate 4 true ++ [false])).env = List.replicate (5 - 1) true ++ false :: []
    ∧ (started (List.replicate 5 true)).env = List.replicate 5 true ++ [] := by decide

theorem witness_TimeoutRestoreIsAStartEdge : (started (List.replicate 5 true)).initDone = true
    ∧ (started (List.replicate 5 true)).params.ackPollBudget = 5 ∧ (started (List.replicate 5 true)).sdaOut = .val false
    ∧ (started (List.replicate 5 true)).env = List.replicate 5 true ++ [] := by decide

theorem witness_SendAckEffect : (stopped []).initDone = true ∧ (stopped []).sdaDir = .output ∧ (stopped []).sclOut = .val true
    ∧ (stopped []).sdaOut = .val true := by decide

theorem witness_SendNackEffect : ({ started [] with sclOut := .val true } : State).initDone = true
    ∧ (started []).sdaDir = .output ∧ (started []).sdaOut = .val false := by decide

theorem witness_PrimitiveEventCounts : (started []).initDone = true ∧ (started []).params.ackPollBudget = 5
    ∧ after (exec .waitAck (started [false])) (·.result) = some .ok
    ∧ after (exec .waitAck (started (List.replicate 5 true))) (·.result) = some .ackTimeout := by decide

/-- The four transactions after INIT, and READ_MULTI's count at both ends of its range. -/
theorem witness_transactionEffects : (ready []).initDone = true ∧ (1 : Byte) ≠ 0 ∧ (255 : Byte) ≠ 0 := by decide

/-- Vector T11's answers (the byte 0x7F after three acknowledges), an acknowledge for each of 255 bytes, and an address phase that
times out. -/
theorem witness_TransactionTimings : (ready []).initDone = true ∧ (ready []).params.ackPollBudget = 5
    ∧ (ready []).params.abortStop2 = true
    ∧ (ready (List.replicate 3 false ++ msbFirst 0x7F)).env = List.replicate 3 false ++ msbFirst 0x7F
    ∧ (ready (List.replicate 257 false)).env = List.replicate (2 + (255 : Byte).toNat) false ++ []
    ∧ (ready (List.replicate 5 true)).env = List.replicate 5 true ++ []
    ∧ Instr.readMulti 0x50 0x10 1 ∈ [Instr.writeOne 0x50 0x10 1, .writeMulti 0x50 0x10 1, .readMulti 0x50 0x10 1]
    ∧ (Instr.readMulti 0x50 0x10 1).WellFormed :=
  ⟨rfl, rfl, rfl, rfl, (List.append_nil _).symm, rfl, by decide, by decide⟩

theorem witness_TransactionsLeaveTheBusIdle : isTransaction (.readOne 0x50 0x10) = true ∧ (Instr.readOne 0x50 0x10).WellFormed
    ∧ (ready []).initDone = true := by decide

theorem witness_WriteThenReadOnEchoingDevice : (ready (List.replicate 6 false ++ msbFirst 0x7F)).initDone = true
    ∧ 1 ≤ (ready (List.replicate 6 false ++ msbFirst 0x7F)).params.ackPollBudget
    ∧ (ready (List.replicate 6 false ++ msbFirst 0x7F)).env = List.replicate 6 false ++ msbFirst 0x7F ++ [] := by decide

theorem witness_EveryCommandEnds : State.reset.params.ackPollBudget = 5 := by decide

theorem witness_SamplesAreTheEnvironmentsAnswers : after (exec .rdSda (inputReady [true])) (·.trace) = some [.smp true] := by decide

theorem witness_DelaysStandAfterEveryEdge : isPinLevel .start = false ∧ isPinLevel .init = true
    ∧ (after (exec .start (ready [])) (·.initDone)).isSome = true ∧ (after (exec .init (ready [])) (·.initDone)).isSome = true := by decide

/-- A state with the fault bits and PROTO_VIOL set, after INIT. -/
def stuckBits : State :=
  { ready [] with fIllegal := true, fRdOut := true, fNoInit := true, fReinit := true, protoViol := true }

theorem witness_StickyBitsStay : (after (step stuckBits) (·.fIllegal)).isSome = true ∧ stuckBits.fIllegal = true
    ∧ stuckBits.fRdOut = true ∧ stuckBits.fNoInit = true ∧ stuckBits.fReinit = true ∧ stuckBits.protoViol = true
    ∧ stuckBits.initDone = true := by decide

theorem witness_TraceOnlyGrows : (after (step State.reset) (·.trace)).isSome = true
    ∧ (after (step (State.reset.thenCommand 0x01000000)) (·.trace)).isSome = true ∧ State.reset.pending = [] := by decide

theorem witness_ConfigurationNeverChanges : (after (step ((ready []).thenCommand 0x20000000)) (·.sclCfg)).isSome = true
    ∧ ((ready []).thenCommand 0x20000000).initDone = true := by decide

theorem witness_CommandsReturnSdaToOutput : Instr.recvByte ≠ .setDir false ∧ (started []).sdaDir = .output
    ∧ (after (exec .recvByte (started (List.replicate 8 true))) (·.sdaDir)).isSome = true := by decide

/-- Two states that differ in every field a command may not read. -/
def otherStatus : State :=
  { started [] with busState := .idle, result := .ackTimeout, ignNack := true, protoViol := true, sample := .val true,
                    rxData := .val 1 }

theorem witness_StatusDoesNotSteerThePins : AgreeOnPins (started []) otherStatus
    ∧ (after (exec .start (started [])) (·.trace)).isSome = true ∧ (after (exec .start otherStatus) (·.trace)).isSome = true :=
  ⟨rfl, by decide, by decide⟩

theorem witness_DelayChangesOnlyTheWaits : (ready (List.replicate 2055 false)).params.ackPollBudget = 5
    ∧ 2055 ≤ (ready (List.replicate 2055 false)).env.length :=
  ⟨rfl, List.length_replicate.ge⟩

theorem witness_StepKeepsTheInvariant : Inv State.reset ∧ (after (step State.reset) (·.trace)).isSome = true :=
  ⟨⟨by decide, by decide, by decide, by decide, by decide⟩, by decide⟩

/-- What `f` reads in the engine after a step. -/
def afterEvent {α : Type} (o : Host.Outcome Engine Fault Refusal) (f : Engine → α) : Option α :=
  match o with
  | .next e => some (f e)
  | .fault _ => none
  | .refused _ => none

/-- An engine that has STOP to run. -/
def stopping : Engine := ⟨(started []).thenCommand 0x21000000, []⟩

/-- An engine in the middle of a STOP, its last two events to come. -/
def midStop : Engine := ⟨started [], [.drvSda true, .wait, .after (.busState .idle), .after (.result .ok)]⟩

/-- A whole STOP, and its first event alone. -/
theorem witness_EventStepsMakeTheStep : after (step stopping.state) (·.trace.length) = some 8
    ∧ afterEvent stopping.step (fun e => (e.state.trace, e.todo.length)) = some ([.drv .scl false], 9)
    ∧ step (asked (.read .word 0x000) State.reset) = .refused .noSuchHostAccess :=
  ⟨by decide, by decide, rfl⟩

/-- An engine that runs nothing and takes up a command, and one in the middle of a command. -/
theorem witness_EachStepIsOnePinEvent : EngineInv stopping ∧ EngineInv midStop
    ∧ stopping.state.pending = [.write .word 0x000 0x21000000] ∧ decode 0x21000000 = .command .stop
    ∧ acceptance .stop stopping.state = none ∧ (afterEvent stopping.step (·.todo)).isSome = true
    ∧ afterEvent midStop.step (·.state.trace) = some [.drv .sda true] :=
  ⟨⟨by decide, by decide⟩, ⟨by decide, by decide⟩, by decide, by decide, by decide, by decide, by decide⟩

theorem witness_NoHostAccessWhileRunning : midStop.todo ≠ [] := by decide

/-- Two instances on pins of their own. -/
def twoBuses : Platform :=
  ⟨[⟨State.powerOn { Config.params with sclPin := ⟨1, 0⟩, sdaPin := ⟨1, 1⟩ }, []⟩,
    ⟨State.powerOn { Config.params with sclPin := ⟨2, 0⟩, sdaPin := ⟨2, 1⟩ }, [.drvSda true, .wait]⟩]⟩

/-- The second instance drives its data pin. -/
def twoBusesLater : Platform :=
  ⟨[⟨State.powerOn { Config.params with sclPin := ⟨1, 0⟩, sdaPin := ⟨1, 1⟩ }, []⟩,
    ⟨{ State.powerOn { Config.params with sclPin := ⟨2, 0⟩, sdaPin := ⟨2, 1⟩ } with
        sdaOut := .val true, trace := [.drv .sda true] }, [.wait]⟩]⟩

theorem witness_InstancesShareNothing : twoBuses.step ⟨2, 0⟩ ⟨2, 1⟩ = .next twoBusesLater := by rfl

theorem witness_InstancesInterleaveFreely : ([⟨2, 0⟩, ⟨2, 1⟩] : List PinId) ≠ [⟨1, 0⟩, ⟨1, 1⟩]
    ∧ twoBuses.step ⟨2, 0⟩ ⟨2, 1⟩ = .next twoBusesLater ∧ twoBusesLater.step ⟨1, 0⟩ ⟨1, 1⟩ = .next twoBusesLater :=
  ⟨by decide, rfl, rfl⟩

/-- Two instances that name the pin 1.1. -/
theorem witness_SharedPinIsRefused :
    (⟨1, 1⟩ : PinId) ∈ (⟨State.powerOn { Config.params with sclPin := ⟨1, 0⟩, sdaPin := ⟨1, 1⟩ }, []⟩ : Engine).boundPins
    ∧ (⟨1, 1⟩ : PinId) ∈ (⟨State.powerOn { Config.params with sclPin := ⟨1, 1⟩, sdaPin := ⟨1, 2⟩ }, []⟩ : Engine).boundPins := by
  decide

/-- 70_reset_and_hazards.md R127: before INIT the data line has no level the model knows; after it, released, it is high. -/
theorem test_sdaLine : (⟨.unconf, true, true⟩ : Wire).sdaLine false = .unspec
    ∧ (⟨.input, true, false⟩ : Wire).sdaLine false = .val true ∧ (⟨.input, true, true⟩ : Wire).sdaLine true = .val false := by
  decide

end Sys2Proof.Tests
end

/-! PROOFS. The statements of 00_scope.md: the address byte (R14), and the block one pin event at a time (R12). -/

namespace Sys2Proof.Machine

open Sys2Proof.Safety

/-! ### The address byte (R14) -/

/-- The direction stands in bit 0, below the seven bits of the device address. -/
theorem addrByte_toNat (dev : DevAddr) (rw : Bit) : (addrByte dev rw).toNat = 2 * dev.toNat + rw.toNat := by
  rw [addrByte, append_toNat, BitVec.toNat_ofBool, Nat.pow_one, Nat.mul_comm]

/-- Settles O7: an append of bit vectors is a sum of numbers, and the eight bits hold it whole. -/
theorem addressByteValue : Obligations.AddressByteValue := addrByte_toNat

/-! ### The events of a command make the command (R12) -/

/-- Every host move answers a next state: only an access that is no move is refused (20_memory.md R46). -/
theorem hostStep_next (m : HostMove) (s : State) : ∃ t, hostStep m s = .next t := by
  cases m with
  | command w =>
    simp only [hostStep, issue]
    cases decode w with
    | command i => exact exec_next i s
    | illegal why => exact ⟨_, rfl⟩
  | readStatus | readRxData | readBuf | writeBuf | ignoredWrite => exact ⟨_, rfl⟩

/-- Once the first event of an expansion is issued, further events lead to the expansion's end. -/
theorem Engine.finish_event {e : Engine} {n : Nat} {t : State} (h : e.finish n = ⟨t, []⟩) : e.event.finish n = ⟨t, []⟩ :=
  e.finish_succ n t h

/-- A command the engine takes up ends, event by event, in the state the whole command ends in. -/
theorem Engine.accept_finish (c : Instr) (s t : State) (h : exec c s = .next t) :
    ∃ n, (Engine.accept c s).finish n = ⟨t, []⟩ := by
  rw [exec_eq, execute] at h
  rw [Engine.accept]
  cases ha : acceptance c s with
  | some f =>
    simp only [ha, Host.Outcome.next.injEq] at h
    exact ⟨0, by rw [← h]; rfl⟩
  | none =>
    simp only [ha, Host.Outcome.next.injEq] at h
    obtain ⟨⟨n, hn⟩, -⟩ := (leads_microOps c s).finish rfl
    exact ⟨n, h ▸ Engine.finish_event hn⟩

/-- A host move that is no command is served whole, with no event. -/
theorem Engine.serve_plain (m : HostMove) (s t : State) (hm : ∀ w, m ≠ .command w) (h : hostStep m s = .next t) :
    Engine.serve m s = .next ⟨t, []⟩ ∧ t.trace = s.trace := by
  obtain ⟨b, k, r, ht⟩ := hostStep_plain m s t hm h
  refine ⟨?_, by rw [ht]⟩
  cases m with
  | command w => exact absurd rfl (hm w)
  | readStatus | readRxData | readBuf | writeBuf | ignoredWrite => simp only [Engine.serve, h]

/-- What the engine makes of a host move ends in the state the whole move ends in. -/
theorem Engine.serve_finish (m : HostMove) (s t : State) (h : hostStep m s = .next t) :
    ∃ e n, Engine.serve m s = .next e ∧ e.finish n = ⟨t, []⟩ := by
  by_cases hm : ∀ w, m ≠ .command w
  · exact ⟨_, 0, (Engine.serve_plain m s t hm h).1, rfl⟩
  · obtain ⟨w, rfl⟩ := not_forall_not.1 hm
    simp only [hostStep, issue] at h
    simp only [Engine.serve]
    cases hw : decode w with
    | command c =>
      obtain ⟨n, hn⟩ := Engine.accept_finish c s t (by simpa [hw] using h)
      exact ⟨_, n, rfl, hn⟩
    | illegal why =>
      simp only [hw, Host.Outcome.next.injEq] at h
      exact ⟨_, 0, rfl, by rw [← h]; rfl⟩

/-- With no access pending the whole-access step waits (10_state.md R16, 60_exceptions.md R124). -/
theorem step_nil (s : State) (h : s.pending = []) : step s = .next s := by
  simp only [step, serveHost, h]

/-- An engine that runs nothing and has no access pending waits. -/
theorem Engine.step_idle_nil (s : State) (h : s.pending = []) : Engine.step ⟨s, []⟩ = .next ⟨s, []⟩ := by
  simp [Engine.step, h]

/-- An engine that runs nothing and has an access pending: the move it is, or the refusal of an access R45 does not list. -/
theorem Engine.step_idle_cons (s : State) (a : HostAccess) (rest : List HostAccess) (h : s.pending = a :: rest) :
    Engine.step ⟨s, []⟩ = match hostMove a with
      | some m => Engine.serve m { s with pending := rest }
      | none => .refused .noSuchHostAccess := by
  have ht := takePending_cons s a rest h
  cases hm : hostMove a <;> simp [Engine.step, h, hm, ht]

/-- A running engine's step is its next event. -/
theorem Engine.step_running (e : Engine) (h : e.todo ≠ []) : e.step = .next e.event := by
  simp [Engine.step, h]

/-- Settles O54: what is left to run leads to the end of the command event by event, by `leads_microOps`. -/
theorem eventStepsMakeTheStep : Obligations.EventStepsMakeTheStep := by
  intro s
  cases hp : s.pending with
  | nil =>
    rw [step_nil s hp]
    refine ⟨fun t ht => ⟨_, 0, Engine.step_idle_nil s hp, ?_⟩, fun r hr => nomatch hr⟩
    rw [← Host.Outcome.next.inj ht]
    rfl
  | cons a rest =>
    rw [step_cons s a rest hp, Engine.step_idle_cons s a rest hp]
    cases hostMove a with
    | none => exact ⟨fun t ht => (nomatch ht), fun r hr => by simpa using hr⟩
    | some m =>
      obtain ⟨t, ht⟩ := hostStep_next m { s with pending := rest }
      exact ⟨Engine.serve_finish m _, fun r hr => by simp [ht] at hr⟩

/-! ### What is left of a command: every write has its event -/

/-- A write that belongs to the event after it has one: what follows is not empty and starts with an event. -/
theorem writesPlaced_before (w : Write) (q : List Micro) : writesPlaced (.before w :: q) = true ↔
    q ≠ [] ∧ startsWithEvent q = true ∧ writesPlaced q = true := by
  rcases q with _ | ⟨m, q⟩
  · simp [writesPlaced]
  · cases m <;> simp [writesPlaced, startsWithEvent]

/-- What is left after a micro-operation of a placed expansion is placed. -/
theorem writesPlaced_of_cons {m : Micro} {q : List Micro} (h : writesPlaced (m :: q) = true) : writesPlaced q = true := by
  cases m with
  | before w => exact ((writesPlaced_before w q).1 h).2.2
  | _ => exact h

/-- What starts with an event does so whatever comes after it. -/
theorem startsWithEvent_append (p q : List Micro) (hp : p ≠ []) : startsWithEvent (p ++ q) = startsWithEvent p := by
  rcases p with _ | ⟨m, p⟩
  · exact absurd rfl hp
  · cases m <;> rfl

/-- After a placed expansion another one is placed where it is placed by itself. -/
theorem writesPlaced_append (p q : List Micro) (hp : writesPlaced p = true) : writesPlaced (p ++ q) = writesPlaced q := by
  induction p with
  | nil => rfl
  | cons m p ih =>
    cases m with
    | before w =>
      obtain ⟨hne, hs, hp⟩ := (writesPlaced_before w p).1 hp
      rw [Bool.eq_iff_iff, List.cons_append, writesPlaced_before, startsWithEvent_append p q hne, ih hp]
      simp [hne, hs]
    | _ => exact ih hp

/-! ### Every expansion is placed -/

/-- The bit loop of SEND_BYTE. -/
theorem writesPlaced_shiftOutOps (n : Nat) (shift : Byte) : writesPlaced (shiftOutOps n shift) = true := by
  induction n generalizing shift with
  | zero => rfl
  | succ n ih => exact ih (shiftLeft shift)

/-- The events of SEND_BYTE. -/
theorem writesPlaced_byteOutOps (v : Byte) : writesPlaced (byteOutOps v) = true :=
  writesPlaced_append _ _ (writesPlaced_shiftOutOps 8 v)

/-- The events of SEND_BYTE after the first. -/
theorem writesPlaced_byteOutOps_tail (v : Byte) : writesPlaced (byteOutOps v).tail = true :=
  writesPlaced_byteOutOps v

/-- SEND_BYTE. -/
theorem writesPlaced_sendByteOps (v : Byte) : writesPlaced (sendByteOps v) = true :=
  writesPlaced_byteOutOps v

/-- The bit loop of RECV_BYTE. -/
theorem writesPlaced_bitInOps (n : Nat) (rcv : Byte) (dest : Option Byte) :
    writesPlaced (bitInOps n rcv dest) = true := by
  cases n with
  | zero => cases dest <;> rfl
  | succ n => rfl

/-- The acknowledge exit of a Wait-Ack. -/
theorem writesPlaced_ackOps (use : AckUse) (rest : List Micro) (h : writesPlaced rest = true) :
    writesPlaced (ackOps use rest) = true := by
  cases use <;> exact h

/-- The timeout exit of a Wait-Ack. -/
theorem writesPlaced_timeoutOps (p : Params) (use : AckUse) (rest : List Micro) (h : writesPlaced rest = true) :
    writesPlaced (timeoutOps p use rest) = true := by
  cases use with
  | command => exact h
  | checked => simp only [timeoutOps]; cases p.abortStop2 <;> rfl
  | ignored => exact h

/-- The poll loop. -/
theorem writesPlaced_pollOps (p : Params) (use : AckUse) (rest : List Micro) (n : Nat) (h : writesPlaced rest = true) :
    writesPlaced (pollOps p use rest n) = true := by
  cases n with
  | zero => exact writesPlaced_timeoutOps p use rest h
  | succ n => exact h

/-- A Wait-Ack. -/
theorem writesPlaced_waitAckOps (p : Params) (use : AckUse) (rest : List Micro) (h : writesPlaced rest = true) :
    writesPlaced (waitAckOps p use rest) = true :=
  writesPlaced_pollOps p use rest p.ackPollBudget h

/-- A byte and its ignored Wait-Ack. -/
theorem writesPlaced_sendIgnoredOps (p : Params) (v : Byte) (rest : List Micro) (h : writesPlaced rest = true) :
    writesPlaced (sendIgnoredOps p v rest) = true := by
  rw [sendIgnoredOps, writesPlaced_append _ _ (writesPlaced_sendByteOps v)]
  exact writesPlaced_waitAckOps p .ignored rest h

/-- The opening of a transaction with a checked address phase. -/
theorem writesPlaced_checkedAddressOps (p : Params) (dev : DevAddr) (rest : List Micro) (h : writesPlaced rest = true) :
    writesPlaced (checkedAddressOps p dev rest) = true := by
  show writesPlaced (sendByteOps (addrByte dev false) ++ waitAckOps p .checked rest) = true
  rw [writesPlaced_append _ _ (writesPlaced_sendByteOps _)]
  exact writesPlaced_waitAckOps p .checked rest h

/-- The data loop of WRITE_MULTI. -/
theorem writesPlaced_sendBufOps (p : Params) (rest : List Micro) (n : Nat) (idx : Byte) (h : writesPlaced rest = true) :
    writesPlaced (sendBufOps p rest n idx) = true := by
  induction n generalizing idx with
  | zero => exact h
  | succ n ih => exact writesPlaced_waitAckOps p .ignored _ (ih (idx + 1))

/-- The data loop of READ_MULTI. -/
theorem writesPlaced_recvBufOps (rest : List Micro) (n : Nat) (idx : Byte) (h : writesPlaced rest = true) :
    writesPlaced (recvBufOps rest n idx) = true := by
  induction n generalizing idx with
  | zero => exact h
  | succ n ih => cases n <;> exact ih (idx + 1)

/-- The expansion of every command. -/
theorem writesPlaced_microOps (p : Params) (c : Instr) : writesPlaced (microOps p c) = true := by
  cases c with
  | init | setDir | wrScl | wrSda | rdSda | start | stop | recvByte | sendAck | sendNack => rfl
  | sendByte v => exact writesPlaced_append _ _ (writesPlaced_sendByteOps v)
  | waitAck => exact writesPlaced_waitAckOps p .command [] rfl
  | writeOne dev reg val =>
    exact writesPlaced_checkedAddressOps p dev _ <| writesPlaced_sendIgnoredOps p reg _ <|
      writesPlaced_sendIgnoredOps p val _ rfl
  | writeMulti dev reg n =>
    exact writesPlaced_checkedAddressOps p dev _ <| writesPlaced_sendIgnoredOps p reg _ <|
      writesPlaced_sendBufOps p _ n.toNat 0 rfl
  | readOne dev reg =>
    exact writesPlaced_sendIgnoredOps p (addrByte dev false) _ <| writesPlaced_sendIgnoredOps p reg _ <|
      writesPlaced_sendIgnoredOps p (addrByte dev true) _ rfl
  | readMulti dev reg n =>
    exact writesPlaced_checkedAddressOps p dev _ <| writesPlaced_sendIgnoredOps p reg _ <|
      writesPlaced_sendIgnoredOps p (addrByte dev true) _ <| writesPlaced_recvBufOps _ n.toNat 0 rfl

/-- The expansion of every command has an event, and starts with it and the writes that belong to it. -/
theorem microOps_startsWithEvent (p : Params) (c : Instr) : microOps p c ≠ [] ∧ startsWithEvent (microOps p c) = true := by
  cases c <;> exact ⟨List.cons_ne_nil _ _, rfl⟩

/-! ### One pin event a step (R12) -/

/-- Between the state `s` and the engine `f` exactly one pin event has been recorded. -/
def OneEvent (s : State) (f : Engine) : Prop := ∃ ev, f.state.trace = s.trace ++ [ev]

/-- Between the state `s` and the engine `f` at most one pin event has been recorded. -/
def AtMostOneEvent (s : State) (f : Engine) : Prop := f.state.trace = s.trace ∨ OneEvent s f

/-- A micro-operation that is no write is one pin event. -/
theorem Micro.run_event (m : Micro) (q : List Micro) (s : State) (hb : ∀ w, m ≠ .before w) (ha : ∀ w, m ≠ .after w) :
    ∃ ev, (m.run q s).2.trace = s.trace ++ [ev] := by
  cases m with
  | before w => exact absurd rfl (hb w)
  | after w => exact absurd rfl (ha w)
  | cfgSda out => cases out <;> exact ⟨_, rfl⟩
  | sendFrom i => exact ⟨.drv .scl false, by simp [Micro.run]⟩
  | _ => exact ⟨_, rfl⟩

/-- What a micro-operation leaves to run is placed: the samples and the bytes of BUF put further placed expansions in front. -/
theorem Micro.run_writesPlaced (m : Micro) (q : List Micro) (s : State) (h : writesPlaced q = true) :
    writesPlaced (m.run q s).1 = true := by
  cases m with
  | sampleBit bitcnt rcv dest => exact (writesPlaced_append _ q (writesPlaced_bitInOps _ _ _)).trans h
  | samplePoll left use =>
    simp only [Micro.run]
    cases s.envAnswer with
    | false => exact writesPlaced_ackOps use q h
    | true => exact writesPlaced_pollOps s.params use q left h
  | sendFrom i => exact (writesPlaced_append _ q (writesPlaced_byteOutOps_tail _)).trans h
  | _ => exact h

/-- With the writes after an event done, the next thing is an event. -/
theorem settle_inv (q : List Micro) (s : State) (h : writesPlaced q = true) : EngineInv (settle q s) := by
  fun_induction settle q s with
  | case1 w rest s ih => exact ih h
  | case2 q s hq =>
    refine ⟨h, ?_⟩
    rcases q with _ | ⟨m, q⟩
    · rfl
    · cases m with
      | after w => exact absurd rfl (hq w q)
      | _ => rfl

/-- From what starts with an event exactly one event is issued, and what is left is nothing or starts with an event again. -/
theorem nextEvent_oneEvent (q : List Micro) (s : State) (hq : q ≠ []) (hp : writesPlaced q = true)
    (hs : startsWithEvent q = true) :
    EngineInv (nextEvent q s) ∧ OneEvent s (nextEvent q s) := by
  fun_induction nextEvent q s with
  | case1 => exact absurd rfl hq
  | case2 w rest s ih =>
    obtain ⟨hne, hs, hp⟩ := (writesPlaced_before w rest).1 hp
    simpa only [OneEvent, (w.apply_keeps s).2] using ih hne hp hs
  | case3 => simp [startsWithEvent] at hs
  | case4 m rest s hb ha =>
    rw [OneEvent, (settle_keeps (m.run rest s).1 (m.run rest s).2).2]
    exact ⟨settle_inv _ _ (m.run_writesPlaced rest s (writesPlaced_of_cons hp)), m.run_event rest s hb ha⟩

/-- An engine that runs nothing is in the invariant. -/
theorem engineInv_idle (s : State) : EngineInv ⟨s, []⟩ := ⟨rfl, rfl⟩

/-- Taking up a command that passes the checks issues its first event. -/
theorem Engine.accept_oneEvent (c : Instr) (s : State) (h : acceptance c s = none) :
    EngineInv (Engine.accept c s) ∧ OneEvent s (Engine.accept c s) := by
  obtain ⟨hne, hs⟩ := microOps_startsWithEvent s.params c
  simp only [Engine.accept, h]
  exact nextEvent_oneEvent _ s hne (writesPlaced_microOps s.params c) hs

/-- A command issues at most one event as it is taken up: its first, and none if it is refused. -/
theorem Engine.accept_atMostOneEvent (c : Instr) (s : State) :
    EngineInv (Engine.accept c s) ∧ AtMostOneEvent s (Engine.accept c s) := by
  cases ha : acceptance c s with
  | some f => simp [Engine.accept, ha, engineInv_idle, AtMostOneEvent]
  | none =>
    obtain ⟨hinv, hev⟩ := Engine.accept_oneEvent c s ha
    exact ⟨hinv, .inr hev⟩

/-- A host move issues at most one event: only a command issues any. -/
theorem Engine.serve_atMostOneEvent (m : HostMove) (s : State) (f : Engine) (h : Engine.serve m s = .next f) :
    EngineInv f ∧ AtMostOneEvent s f := by
  by_cases hm : ∀ w, m ≠ .command w
  · obtain ⟨t, ht⟩ := hostStep_next m s
    obtain ⟨hserve, htrace⟩ := Engine.serve_plain m s t hm ht
    obtain rfl := Host.Outcome.next.inj (hserve.symm.trans h)
    exact ⟨engineInv_idle t, .inl htrace⟩
  · obtain ⟨w, rfl⟩ := not_forall_not.1 hm
    simp only [Engine.serve] at h
    cases hw : decode w with
    | command c =>
      simp only [hw, Host.Outcome.next.injEq] at h
      exact h ▸ Engine.accept_atMostOneEvent c s
    | illegal why =>
      simp only [hw, Host.Outcome.next.injEq] at h
      exact h ▸ ⟨engineInv_idle _, .inl (s.raiseFault_trace .illegal)⟩

/-- A write of a command's word to CMD is that command, taken up by the engine. -/
theorem Engine.step_idle_command (s : State) (w : Word) (rest : List HostAccess) (c : Instr)
    (hp : s.pending = .write .word 0x000 w :: rest) (hw : decode w = .command c) :
    Engine.step ⟨s, []⟩ = .next (Engine.accept c { s with pending := rest }) := by
  rw [Engine.step_idle_cons s _ rest hp]
  simp [hostMove, cmdOffset, Engine.serve, hw]

/-- A step of an engine that runs nothing issues at most one event. -/
theorem Engine.step_idle_atMostOneEvent (s : State) (f : Engine) (h : Engine.step ⟨s, []⟩ = .next f) :
    EngineInv f ∧ AtMostOneEvent s f := by
  cases hp : s.pending with
  | nil =>
    rw [Engine.step_idle_nil s hp, Host.Outcome.next.injEq] at h
    subst h
    exact ⟨engineInv_idle s, .inl rfl⟩
  | cons a rest =>
    rw [Engine.step_idle_cons s a rest hp] at h
    cases hm : hostMove a with
    | none => simp [hm] at h
    | some m => exact Engine.serve_atMostOneEvent m { s with pending := rest } f (by simpa [hm] using h)

/-- Settles O55: a running command's step is `nextEvent_oneEvent`, and a host access is a move of which only a command that
passes the checks issues an event, its first. -/
theorem eachStepIsOnePinEvent : Obligations.EachStepIsOnePinEvent := by
  rintro ⟨s, todo⟩ f ⟨hplaced, hstart⟩ hstep
  by_cases htodo : todo = []
  · subst htodo
    obtain ⟨hinv, htrace⟩ := Engine.step_idle_atMostOneEvent s f hstep
    refine ⟨hinv, htrace, fun h => absurd rfl h, fun w rest c _ hp hw ha => ?_⟩
    rw [Engine.step_idle_command s w rest c hp hw, Host.Outcome.next.injEq] at hstep
    subst hstep
    exact (Engine.accept_oneEvent c { s with pending := rest } ha).2
  · rw [Engine.step_running _ htodo, Host.Outcome.next.injEq] at hstep
    subst hstep
    obtain ⟨hinv, hev⟩ := nextEvent_oneEvent todo s htodo hplaced hstart
    exact ⟨hinv, .inr hev, fun _ => hev, fun _ _ _ h => absurd h htodo⟩

end Sys2Proof.Machine

/-! PROOFS. The statements of 10_state.md: what a command reads and samples (R24 to R29, R32, R33), what every step keeps
(R17 to R23), and STATUS (R37). -/

namespace Sys2Proof.Machine

open Sys2Proof.Safety

/-! ### What a run of micro-operations does, from what one does -/

/-- A relation that holds across every micro-operation, and composes, holds across every run of them. -/
theorem Leads.relates {R : State → State → Prop} (hrefl : ∀ s, R s s) (htrans : ∀ s t u, R s t → R t u → R s u)
    (hrun : ∀ m q s, R s (Micro.run m q s).2) {q q' : List Micro} {s t : State} (h : Leads q s q' t) : R s t := by
  induction h with
  | refl q s => exact hrefl s
  | step m q q' s t _ ih => exact htrans _ _ _ (hrun m q s) ih

/-- The events a micro-operation records: one, or none where it is a write. -/
def Micro.emits (m : Micro) (s : State) : List PinEvent :=
  match m with
  | .before _ | .after _ => []
  | .cfgScl => [.cfg .scl s.params.sclMode.pinMode]
  | .cfgSda out => [.cfg .sda (if out then .od else .ipu)]
  | .drvScl l => [.drv .scl l]
  | .drvSda l => [.drv .sda l]
  | .sendFrom _ => [.drv .scl false]
  | .wait => [.wait s.params.tD]
  | .sampleLine | .sampleBit .. | .samplePoll .. => [.smp s.envAnswer]

/-- A micro-operation records its events, does to the pin fields what they do (40_pin_signaling.md R74), and takes an answer for
each sample (R32). -/
theorem Micro.run_emits (m : Micro) (q : List Micro) (s : State) :
    (m.run q s).2.trace = s.trace ++ m.emits s ∧ (m.run q s).2.pins = s.pins.replay (m.emits s)
    ∧ (m.run q s).2.env = s.env.drop (samplesOf (m.emits s)).length := by
  cases m with
  | before w | after w => cases w <;> exact ⟨(List.append_nil _).symm, rfl, rfl⟩
  | cfgScl => exact ⟨rfl, by cases h : s.params.sclMode <;>
      simp [Micro.run, Micro.emits, State.pins, PinView.replay, PinView.apply, h, SclMode.pinMode], rfl⟩
  | cfgSda out => cases out <;> exact ⟨rfl, rfl, rfl⟩
  | sampleLine | sampleBit | samplePoll => exact ⟨rfl, rfl, (List.drop_one).symm⟩
  | sendFrom idx =>
    obtain ⟨k, hk⟩ := memRead_state idx s
    simp only [Micro.run, hk]
    exact ⟨rfl, rfl, rfl⟩
  | _ => exact ⟨rfl, rfl, rfl⟩

/-! ### Samples are the environment's answers (R32, R33) -/

/-- The answers of two runs, one after the other. -/
theorem samplesOf_append (es fs : List PinEvent) : samplesOf (es ++ fs) = samplesOf es ++ samplesOf fs := by
  induction es with
  | nil => rfl
  | cons e es ih => cases e <;> simp [samplesOf, ih]

/-- What the environment of the state `s` answers to a sample taken after the events `pre`: the next answer held, or `env_sda`
of the trace so far (R32; log 2). -/
def State.answerAfter (s : State) (pre : List PinEvent) : Bit :=
  (s.env[(samplesOf pre).length]?).getD (s.busAnswer (s.trace ++ pre))

/-- From `s` to `t` the events `es` are recorded, each of their samples with the environment's answer in its place, and
those answers are taken. -/
structure Answered (s t : State) (es : List PinEvent) : Prop where
  params : t.params = s.params
  trace : t.trace = s.trace ++ es
  env : t.env = s.env.drop (samplesOf es).length
  answers : ∀ pre b post, es = pre ++ .smp b :: post → b = s.answerAfter pre

/-- A sample taken now gets the answer after no event. -/
theorem State.envAnswer_eq (s : State) : s.envAnswer = s.answerAfter [] := by
  cases h : s.env with
  | nil => simp [State.envAnswer_nil s h, State.answerAfter, h]
  | cons b rest => simp [State.envAnswer_cons s b rest h, State.answerAfter, h, samplesOf]

/-- What is answered after the events `es` and then `pre` is what is answered after `es ++ pre`. -/
theorem Answered.answerAfter {s t : State} {es : List PinEvent} (h : Answered s t es) (pre : List PinEvent) :
    t.answerAfter pre = s.answerAfter (es ++ pre) := by
  simp [State.answerAfter, State.busAnswer, h.params, h.trace, h.env, samplesOf_append]

/-- With no event, trace and answers as they were. -/
theorem Answered.silent {s t : State} (hp : t.params = s.params) (ht : t.trace = s.trace) (he : t.env = s.env) :
    Answered s t [] :=
  ⟨hp, by simp [ht], by simp [he, samplesOf], fun pre b post h => by simp at h⟩

/-- One run after another. -/
theorem Answered.trans {s t u : State} {es fs : List PinEvent} (h : Answered s t es) (h' : Answered t u fs) :
    Answered s u (es ++ fs) := by
  refine ⟨h'.params.trans h.params, by rw [h'.trace, h.trace, List.append_assoc], ?_, fun pre b post hsplit => ?_⟩
  · rw [h'.env, h.env, List.drop_drop, samplesOf_append, List.length_append]
  · rcases List.append_eq_append_iff.1 hsplit with ⟨mid, rfl, hfs⟩ | ⟨mid, rfl, hmid⟩
    · exact (h'.answers mid b post hfs).trans (h.answerAfter mid)
    · rcases mid with _ | ⟨e, mid⟩
      · simpa using (h'.answers [] b post hmid.symm).trans (h.answerAfter [])
      · obtain ⟨rfl, -⟩ := List.cons.inj hmid
        exact h.answers pre b mid rfl

/-- The one event a sampling micro-operation records holds the answer to a sample taken now. -/
theorem Micro.emits_smp (m : Micro) (s : State) (pre post : List PinEvent) (b : Bit)
    (h : m.emits s = pre ++ .smp b :: post) : pre = [] ∧ b = s.envAnswer := by
  rcases pre with _ | ⟨e, pre⟩
  · refine ⟨rfl, ?_⟩
    cases m with
    | sampleLine | sampleBit | samplePoll => exact (PinEvent.smp.inj (List.cons.inj h).1).symm
    | _ => simp [Micro.emits] at h
  · cases m <;> simp [Micro.emits] at h

/-- A micro-operation. -/
theorem Micro.run_answered (m : Micro) (q : List Micro) (s : State) : Answered s (m.run q s).2 (m.emits s) := by
  obtain ⟨htrace, -, henv⟩ := m.run_emits q s
  refine ⟨(m.run_keeps q s).params, htrace, henv, fun pre b post h => ?_⟩
  obtain ⟨rfl, rfl⟩ := m.emits_smp s pre post b h
  exact s.envAnswer_eq

/-- Every command: a refused one records nothing, and the others run their micro-operations. -/
theorem exec_answered (i : Instr) (s t : State) (h : exec i s = .next t) : ∃ es, Answered s t es := by
  rcases exec_cases i s t h with ⟨f, -, rfl⟩ | ⟨-, -, -, rfl⟩
  · exact ⟨[], .silent (s.raiseFault_params f) (s.raiseFault_trace f) (s.raiseFault_env f)⟩
  · exact Leads.relates (R := fun s t => ∃ es, Answered s t es) (fun s => ⟨[], .silent rfl rfl rfl⟩)
      (fun _ _ _ ⟨_, h⟩ ⟨_, h'⟩ => ⟨_, h.trans h'⟩) (fun m q s => ⟨_, m.run_answered q s⟩) (leads_microOps i s)

/-- Settles O44: a command's events hold the environment's answers in their places, as each of its micro-operations' do. -/
theorem samplesAreTheEnvironmentsAnswers : Obligations.SamplesAreTheEnvironmentsAnswers := by
  intro i s t h
  obtain ⟨es, hes⟩ := exec_answered i s t h
  refine ⟨es, hes.trace, hes.env, fun pre b post hsplit => ?_⟩
  have hb := hes.answers pre b post hsplit
  exact ⟨fun a ha => by simpa [State.answerAfter, ha] using hb, fun hn => by simpa [State.answerAfter, hn] using hb⟩

/-! ### What no command reads (R24 to R29) -/

/-- States that agree on the pins differ by other values of the six fields. -/
theorem agreeOnPins_iff (s s' : State) : AgreeOnPins s s' ↔ ∃ b r n v x y,
    s' = { s with busState := b, result := r, ignNack := n, protoViol := v, sample := x, rxData := y } := by
  constructor
  · intro h
    exact ⟨_, _, _, _, _, _, h⟩
  · rintro ⟨b, r, n, v, x, y, rfl⟩
    rfl

/-- The six fields are neither the parameters nor the trace. -/
theorem agreeOnPins_keeps {s s' : State} (h : AgreeOnPins s s') : s'.params = s.params ∧ s'.trace = s.trace := by
  obtain ⟨b, r, n, v, x, y, rfl⟩ := (agreeOnPins_iff s s').1 h
  exact ⟨rfl, rfl⟩

/-- A refusal agrees on the pins where the states do: it sets a fault bit. -/
theorem raiseFault_agreeOnPins {s s' : State} (h : AgreeOnPins s s') (f : FaultCode) :
    AgreeOnPins (s.raiseFault f) (s'.raiseFault f) := by
  obtain ⟨b, r, n, v, x, y, rfl⟩ := (agreeOnPins_iff s s').1 h
  cases f <;> rfl

/-- The acceptance checks read none of the six fields (60_exceptions.md R109). -/
theorem acceptance_agreeOnPins {s s' : State} (h : AgreeOnPins s s') (i : Instr) : acceptance i s' = acceptance i s := by
  obtain ⟨b, r, n, v, x, y, rfl⟩ := (agreeOnPins_iff s s').1 h
  rfl

/-- A micro-operation reads none of the six fields: it leaves the same to run, in states that agree on the pins. -/
theorem Micro.run_agreeOnPins {s s' : State} (m : Micro) (h : AgreeOnPins s s') (q : List Micro) :
    (m.run q s').1 = (m.run q s).1 ∧ AgreeOnPins (m.run q s).2 (m.run q s').2 := by
  obtain ⟨b, r, n, v, x, y, rfl⟩ := (agreeOnPins_iff s s').1 h
  cases m with
  | before w | after w => cases w <;> exact ⟨rfl, rfl⟩
  | cfgSda out => cases out <;> exact ⟨rfl, rfl⟩
  | sendFrom idx =>
    simp only [Micro.run, State.memRead]
    cases bufGet s.buf idx.toNat <;> exact ⟨rfl, rfl⟩
  | _ => exact ⟨rfl, rfl⟩

/-- One expansion, run to its end from two states that agree on the pins, ends in states that agree on the pins. -/
theorem Leads.agreeOnPins {q q' : List Micro} {s t : State} (h : Leads q s q' t) (hq : q' = []) {s' t' : State}
    (hs : AgreeOnPins s s') (h' : Leads q s' [] t') : AgreeOnPins t t' := by
  induction h generalizing s' with
  | refl q s =>
    subst hq
    cases h'
    exact hs
  | step m q q' s t _ ih =>
    obtain ⟨hleft, hagree⟩ := m.run_agreeOnPins hs q
    cases h' with
    | step _ _ _ _ _ h' => exact ih hq hagree (hleft ▸ h')

/-- Settles O50: the checks and the micro-operations read none of the six fields, and the expansion of a command is one list of
micro-operations in both states. -/
theorem statusDoesNotSteerThePins : Obligations.StatusDoesNotSteerThePins := by
  intro i s s' t t' hs h h'
  have ht : AgreeOnPins t t' := by
    rw [exec_eq, execute] at h h'
    rw [acceptance_agreeOnPins hs i] at h'
    cases hf : acceptance i s with
    | some f =>
      simp only [hf, Host.Outcome.next.injEq] at h h'
      subst h h'
      exact raiseFault_agreeOnPins hs f
    | none =>
      simp only [hf, Host.Outcome.next.injEq] at h h'
      subst h h'
      have hrun := leads_microOps i s'
      rw [(agreeOnPins_keeps hs).1] at hrun
      exact (leads_microOps i s).agreeOnPins rfl hs hrun
  exact ⟨(agreeOnPins_keeps ht).2, ht⟩

/-! ### What a command other than INIT may do, micro-operation by micro-operation -/

/-- The data pin's direction after a micro-operation and what a sample puts in its place: the poll loop and the bit loop of
RECV_BYTE end in output mode (41_primitives.md R88, R91). -/
def Micro.dirAfter (d : SdaDir) : Micro → SdaDir
  | .cfgSda out => if out then .output else .input
  | .sampleBit .. | .samplePoll .. => .output
  | .before _ | .after _ | .cfgScl | .drvScl _ | .drvSda _ | .wait | .sampleLine | .sendFrom _ => d

/-- The micro-operation is none of INIT's own, and no sample in output mode. -/
def Micro.allowed (d : SdaDir) : Micro → Bool
  | .cfgScl => false
  | .before w | .after w => w != .initDone
  | .sampleLine | .sampleBit .. | .samplePoll .. => d != .output
  | .cfgSda _ | .drvScl _ | .drvSda _ | .wait | .sendFrom _ => true

/-- The data pin's direction after a list of micro-operations that starts in `d`. -/
def dirAfter (d : SdaDir) (q : List Micro) : SdaDir := q.foldl Micro.dirAfter d

/-- Every micro-operation of the list is allowed in the direction it finds. -/
def allowedFrom : SdaDir → List Micro → Bool
  | _, [] => true
  | d, m :: q => m.allowed d && allowedFrom (m.dirAfter d) q

/-- After one list another one is allowed where it is allowed in the direction the first ends in. -/
theorem allowedFrom_append (d : SdaDir) (p q : List Micro) :
    allowedFrom d (p ++ q) = (allowedFrom d p && allowedFrom (dirAfter d p) q) := by
  induction p generalizing d with
  | nil => rfl
  | cons m p ih => simp [allowedFrom, ih, dirAfter, Bool.and_assoc]

/-- The bit loop of SEND_BYTE. -/
theorem allowedFrom_shiftOutOps (d : SdaDir) (n : Nat) (shift : Byte) (q : List Micro) :
    allowedFrom d (shiftOutOps n shift ++ q) = allowedFrom d q := by
  induction n generalizing shift with
  | zero => rfl
  | succ n ih => exact ih (shiftLeft shift)

/-- The events of SEND_BYTE. -/
theorem allowedFrom_byteOutOps (d : SdaDir) (v : Byte) (q : List Micro) :
    allowedFrom d (byteOutOps v ++ q) = allowedFrom d q := by
  rw [byteOutOps, List.append_assoc, allowedFrom_shiftOutOps]
  rfl

/-- The events of SEND_BYTE after the first. -/
theorem allowedFrom_byteOutOps_tail (d : SdaDir) (v : Byte) (q : List Micro) :
    allowedFrom d ((byteOutOps v).tail ++ q) = allowedFrom d q :=
  allowedFrom_byteOutOps d v q

/-- The bit loop of RECV_BYTE. -/
theorem allowedFrom_bitInOps (d : SdaDir) (n : Nat) (rcv : Byte) (dest : Option Byte) (q : List Micro) (hd : d ≠ .output)
    (h : allowedFrom .output q = true) : allowedFrom d (bitInOps n rcv dest ++ q) = true := by
  cases n with
  | zero => cases dest <;> exact h
  | succ n => simpa [bitInOps, sclOps, allowedFrom, Micro.allowed, Micro.dirAfter, hd] using h

/-- The poll loop. -/
theorem allowedFrom_pollOps (d : SdaDir) (p : Params) (use : AckUse) (rest : List Micro) (n : Nat) (hd : d ≠ .output)
    (h : allowedFrom .output rest = true) : allowedFrom d (pollOps p use rest n) = true := by
  cases n with
  | zero =>
    cases use with
    | checked => simp only [pollOps, timeoutOps]; cases p.abortStop2 <;> rfl
    | command | ignored => exact h
  | succ n => simpa [pollOps, allowedFrom, Micro.allowed, Micro.dirAfter, hd] using h

/-- A Wait-Ack. -/
theorem allowedFrom_waitAckOps (d : SdaDir) (p : Params) (use : AckUse) (rest : List Micro)
    (h : allowedFrom .output rest = true) : allowedFrom d (waitAckOps p use rest) = true :=
  allowedFrom_pollOps .input p use rest _ (by decide) h

/-- A byte and its ignored Wait-Ack. -/
theorem allowedFrom_sendIgnoredOps (d : SdaDir) (p : Params) (v : Byte) (rest : List Micro)
    (h : allowedFrom .output rest = true) : allowedFrom d (sendIgnoredOps p v rest) = true :=
  (allowedFrom_byteOutOps d v _).trans (allowedFrom_waitAckOps d p .ignored rest h)

/-- The opening of a transaction with a checked address phase. -/
theorem allowedFrom_checkedAddressOps (d : SdaDir) (p : Params) (dev : DevAddr) (rest : List Micro)
    (h : allowedFrom .output rest = true) : allowedFrom d (checkedAddressOps p dev rest) = true :=
  (allowedFrom_byteOutOps d (addrByte dev false) _).trans (allowedFrom_waitAckOps d p .checked rest h)

/-- RECV_BYTE. -/
theorem allowedFrom_recvByteOps (d : SdaDir) (dest : Option Byte) (q : List Micro) (h : allowedFrom .output q = true) :
    allowedFrom d (recvByteOps dest ++ q) = true :=
  allowedFrom_bitInOps .input 8 0 dest q (by decide) h

/-- The data loop of WRITE_MULTI. -/
theorem allowedFrom_sendBufOps (p : Params) (rest : List Micro) (n : Nat) (idx : Byte)
    (h : allowedFrom .output rest = true) : allowedFrom .output (sendBufOps p rest n idx) = true := by
  induction n generalizing idx with
  | zero => exact h
  | succ n ih => exact allowedFrom_waitAckOps .output p .ignored _ (ih (idx + 1))

/-- The data loop of READ_MULTI. -/
theorem allowedFrom_recvBufOps (rest : List Micro) (n : Nat) (idx : Byte) (h : allowedFrom .output rest = true) :
    allowedFrom .output (recvBufOps rest n idx) = true := by
  induction n generalizing idx with
  | zero => exact h
  | succ n ih =>
    rw [recvBufOps, List.append_assoc]
    refine allowedFrom_recvByteOps .output (some idx) _ ?_
    cases n <;> exact ih (idx + 1)

/-- Every micro-operation of a command other than INIT is allowed, RD_SDA's sample where its check lets it through
(60_exceptions.md R109). -/
theorem allowedFrom_microOps (d : SdaDir) (p : Params) (c : Instr) (hi : c ≠ .init) (hr : c = .rdSda → d ≠ .output) :
    allowedFrom d (microOps p c) = true := by
  cases c with
  | init => exact absurd rfl hi
  | rdSda => simp [microOps, allowedFrom, Micro.allowed, hr rfl]
  | setDir | wrScl | wrSda | start | stop | sendAck | sendNack => rfl
  | sendByte v => exact allowedFrom_byteOutOps d v _
  | recvByte => exact allowedFrom_recvByteOps d none _ rfl
  | waitAck => exact allowedFrom_waitAckOps d p .command [] rfl
  | writeOne dev reg val =>
    exact allowedFrom_checkedAddressOps d p dev _ <| allowedFrom_sendIgnoredOps _ p reg _ <|
      allowedFrom_sendIgnoredOps _ p val _ rfl
  | writeMulti dev reg n =>
    exact allowedFrom_checkedAddressOps d p dev _ <| allowedFrom_sendIgnoredOps _ p reg _ <|
      allowedFrom_sendBufOps p _ n.toNat 0 rfl
  | readOne dev reg =>
    refine allowedFrom_sendIgnoredOps d p (addrByte dev false) _ <| allowedFrom_sendIgnoredOps _ p reg _ <|
      allowedFrom_sendIgnoredOps _ p (addrByte dev true) _ ?_
    rw [List.append_assoc]
    exact allowedFrom_recvByteOps _ none _ rfl
  | readMulti dev reg n =>
    exact allowedFrom_checkedAddressOps d p dev _ <| allowedFrom_sendIgnoredOps _ p reg _ <|
      allowedFrom_sendIgnoredOps _ p (addrByte dev true) _ <| allowedFrom_recvBufOps _ n.toNat 0 rfl

/-- What a micro-operation leaves to run is allowed where it is itself. -/
theorem Micro.run_allowedFrom (m : Micro) (q : List Micro) (s : State) (h : allowedFrom s.sdaDir (m :: q) = true) :
    allowedFrom (m.run q s).2.sdaDir (m.run q s).1 = true := by
  obtain ⟨hm, hq⟩ := Bool.and_eq_true_iff.1 h
  cases m with
  | before w | after w => cases w <;> exact hq
  | cfgSda out => cases out <;> exact hq
  | sampleBit n rcv dest => exact allowedFrom_bitInOps s.sdaDir n _ dest q (by simpa [Micro.allowed] using hm) hq
  | samplePoll left use =>
    simp only [Micro.run]
    cases s.envAnswer with
    | false => cases use <;> exact hq
    | true => exact allowedFrom_pollOps s.sdaDir _ use q left (by simpa [Micro.allowed] using hm) hq
  | sendFrom idx =>
    simp only [Micro.run, allowedFrom_byteOutOps_tail, State.drvScl_sdaDir, State.checkProto, State.memRead_sdaDir]
    exact hq
  | _ => exact hq

/-- A relation that holds across every allowed micro-operation, and composes, holds across every run of an allowed list. -/
theorem Leads.relates_of_allowed {R : State → State → Prop} (hrefl : ∀ s, R s s) (htrans : ∀ s t u, R s t → R t u → R s u)
    (hrun : ∀ m q s, Micro.allowed s.sdaDir m = true → R s (m.run q s).2) {q q' : List Micro} {s t : State}
    (h : Leads q s q' t) (hq : allowedFrom s.sdaDir q = true) : R s t := by
  induction h with
  | refl q s => exact hrefl s
  | step m q q' s t _ ih =>
    exact htrans _ _ _ (hrun m q s (Bool.and_eq_true_iff.1 hq).1) (ih (m.run_allowedFrom q s hq))

/-! ### What every command keeps from INIT on (R19, R20, R23) -/

/-- Samples of two runs, one after the other, are all taken in input mode if those of each are. -/
theorem samplesInInput_append (p : PinView) (es fs : List PinEvent) :
    p.samplesInInput (es ++ fs) = (p.samplesInInput es && (p.replay es).samplesInInput fs) := by
  induction es generalizing p with
  | nil => rfl
  | cons e es ih =>
    simp only [List.cons_append, PinView.samplesInInput, ih, Bool.and_assoc, PinView.replay, List.foldl_cons]

/-- From `s` to `t` events are recorded that make of the pin fields what they are in `t`, every sample in input mode. -/
def PinsFollow (s t : State) : Prop :=
  ∃ es, t.trace = s.trace ++ es ∧ t.pins = s.pins.replay es ∧ s.pins.samplesInInput es = true

/-- One run after another. -/
theorem PinsFollow.trans {s t u : State} (h : PinsFollow s t) (h' : PinsFollow t u) : PinsFollow s u := by
  obtain ⟨es, htrace, hpins, hsmp⟩ := h
  obtain ⟨fs, htrace', hpins', hsmp'⟩ := h'
  refine ⟨es ++ fs, by rw [htrace', htrace, List.append_assoc], ?_, ?_⟩
  · rw [hpins', hpins, PinView.replay, PinView.replay, PinView.replay, List.foldl_append]
  · rw [samplesInInput_append, hsmp, ← hpins, hsmp']
    rfl

/-- What a command keeps of the Bus Handle that INIT has created: the parameters, the clock pin's mode, BUF's canonical form, and
that the pin fields follow the trace. -/
structure KeepsHandle (s t : State) : Prop where
  params : t.params = s.params
  initDone : t.initDone = s.initDone
  sclCfg : t.sclCfg = s.sclCfg
  bufWf : Memory.wf s.buf = true → Memory.wf t.buf = true
  pins : s.sdaDir ≠ .unconf → t.sdaDir ≠ .unconf ∧ PinsFollow s t

/-- Nothing done keeps everything. -/
theorem KeepsHandle.refl (s : State) : KeepsHandle s s :=
  ⟨rfl, rfl, rfl, id, fun h => ⟨h, [], (List.append_nil _).symm, rfl, rfl⟩⟩

/-- One run after another. -/
theorem KeepsHandle.trans {s t u : State} (h : KeepsHandle s t) (h' : KeepsHandle t u) : KeepsHandle s u := by
  refine ⟨h'.params.trans h.params, h'.initDone.trans h.initDone, h'.sclCfg.trans h.sclCfg, fun hb => h'.bufWf (h.bufWf hb),
    fun hd => ?_⟩
  obtain ⟨hd', hfollow⟩ := h.pins hd
  obtain ⟨hd'', hfollow'⟩ := h'.pins hd'
  exact ⟨hd'', hfollow.trans hfollow'⟩

/-- An allowed micro-operation records no sample outside input mode. -/
theorem Micro.emits_samplesInInput (m : Micro) (s : State) (h : m.allowed s.sdaDir = true) (hd : s.sdaDir ≠ .unconf) :
    s.pins.samplesInInput (m.emits s) = true := by
  cases m with
  | sampleLine | sampleBit | samplePoll =>
    cases hs : s.sdaDir <;> simp_all [Micro.allowed, Micro.emits, PinView.samplesInInput, State.pins]
  | _ => rfl

/-- An allowed micro-operation writes neither INIT_DONE nor SCL_CFG, and BUF only with a MemWrite. -/
theorem Micro.run_fields (m : Micro) (q : List Micro) (s : State) (h : m.allowed s.sdaDir = true) :
    (m.run q s).2.initDone = s.initDone ∧ (m.run q s).2.sclCfg = s.sclCfg
    ∧ (Memory.wf s.buf = true → Memory.wf (m.run q s).2.buf = true)
    ∧ (s.sdaDir ≠ .unconf → (m.run q s).2.sdaDir ≠ .unconf) := by
  cases m with
  | cfgScl => cases h
  | before w | after w =>
    cases w with
    | initDone => cases h
    | store i v => exact ⟨rfl, rfl, memWrite_wf s i v, id⟩
    | _ => exact ⟨rfl, rfl, id, id⟩
  | cfgSda out => cases out <;> exact ⟨rfl, rfl, id, fun _ => by simp [Micro.run]⟩
  | sendFrom idx => simp [Micro.run, State.checkProto]
  | _ => exact ⟨rfl, rfl, id, id⟩

/-- An allowed micro-operation. -/
theorem Micro.run_keepsHandle (m : Micro) (q : List Micro) (s : State) (h : m.allowed s.sdaDir = true) :
    KeepsHandle s (m.run q s).2 := by
  obtain ⟨hinit, hscl, hbuf, hdir⟩ := m.run_fields q s h
  obtain ⟨htrace, hpins, -⟩ := m.run_emits q s
  exact ⟨(m.run_keeps q s).params, hinit, hscl, hbuf,
    fun hd => ⟨hdir hd, m.emits s, htrace, hpins, m.emits_samplesInInput s h hd⟩⟩

/-- A refusal. -/
theorem raiseFault_keepsHandle (f : FaultCode) (s : State) : KeepsHandle s (s.raiseFault f) := by
  cases f <;> exact ⟨rfl, rfl, rfl, id, fun h => ⟨h, [], (List.append_nil _).symm, rfl, rfl⟩⟩

/-- Every command, from INIT on. -/
theorem exec_keepsHandle (i : Instr) (s t : State) (hs : s.initDone = true) (h : exec i s = .next t) : KeepsHandle s t := by
  rcases exec_cases i s t h with ⟨f, -, rfl⟩ | ⟨-, hi, hr, rfl⟩
  · exact raiseFault_keepsHandle f s
  · have hi : i ≠ .init := fun hinit => by simp [hi.1 hinit] at hs
    exact (leads_microOps i s).relates_of_allowed .refl (fun _ _ _ => .trans) (fun m q s => m.run_keepsHandle q s)
      (allowedFrom_microOps s.sdaDir s.params i hi hr)

/-! ### The invariants of a step (R17, R19, R33) -/

/-- Only a word write to CMD is a command (20_memory.md R45). -/
theorem hostMove_command (a : HostAccess) (w : Word) (h : hostMove a = some (.command w)) : a = .write .word 0x000 w := by
  fun_cases hostMove a <;> simp_all [hostMove, cmdOffset]

/-- A host move that is no command keeps BUF canonical. -/
theorem hostStep_bufWf (m : HostMove) (s t : State) (hm : ∀ w, m ≠ .command w) (h : hostStep m s = .next t)
    (hb : Memory.wf s.buf = true) : Memory.wf t.buf = true := by
  cases m with
  | command w => exact absurd rfl (hm w)
  | writeBuf i v =>
    rw [← Host.Outcome.next.inj h]
    exact memWrite_wf s i v hb
  | readStatus | readRxData | readBuf | ignoredWrite =>
    simp only [hostStep, Host.Outcome.next.injEq] at h
    simpa [← h, State.readStatus, State.readRxData] using hb

/-- From `s` to `t` no command has run: only BUF, F_ILLEGAL, F_NOINIT, the draw counter and what the host port holds may
differ. -/
def NoCommandRan (s t : State) : Prop :=
  ∃ p b k r f g, t = { s with pending := p, buf := b, draws := k, replies := r, fIllegal := f, fNoInit := g }
    ∧ (Memory.wf s.buf = true → Memory.wf b = true)

/-- A step that answers a next state runs the command written to CMD, or runs none. -/
theorem step_command_or_not (s t : State) (h : step s = .next t) :
    (∃ w rest c, s.pending = .write .word 0x000 w :: rest ∧ exec c { s with pending := rest } = .next t)
    ∨ NoCommandRan s t := by
  rcases step_cases s t h with ⟨-, rfl⟩ | ⟨a, rest, m, hp, hm, ht⟩
  · exact .inr ⟨_, _, _, _, _, _, rfl, id⟩
  · by_cases hc : ∀ w, m ≠ .command w
    · obtain ⟨b, k, r, rfl⟩ := hostStep_plain m _ t hc ht
      exact .inr ⟨rest, b, k, r, _, _, rfl, hostStep_bufWf m _ _ hc ht⟩
    · obtain ⟨w, rfl⟩ := not_forall_not.1 hc
      obtain rfl := hostMove_command a w hm
      simp only [hostStep, issue] at ht
      cases hd : decode w with
      | command c => exact .inl ⟨w, rest, c, hp, by simpa [hd] using ht⟩
      | illegal why =>
        simp only [hd, Host.Outcome.next.injEq] at ht
        exact .inr ⟨rest, s.buf, s.draws, s.replies, true, _, ht.symm, id⟩

/-- Settles O47: a command records its events after those before it, and nothing else records any. -/
theorem traceOnlyGrows : Obligations.TraceOnlyGrows := by
  intro s t h
  rcases step_command_or_not s t h with ⟨w, rest, c, hp, hc⟩ | ⟨_, _, _, _, _, _, rfl, -⟩
  · obtain ⟨es, hes⟩ := exec_answered c _ t hc
    exact ⟨⟨es, hes.trace.symm⟩, fun hno => absurd hp (hno w rest)⟩
  · exact ⟨⟨[], List.append_nil _⟩, fun _ => rfl⟩

/-- Settles O48: no command writes a parameter, and from INIT on none writes SCL_CFG. -/
theorem configurationNeverChanges : Obligations.ConfigurationNeverChanges := by
  intro s t h
  rcases step_command_or_not s t h with ⟨w, rest, c, -, hc⟩ | ⟨_, _, _, _, _, _, rfl, -⟩
  · obtain ⟨es, hes⟩ := exec_answered c _ t hc
    exact ⟨hes.params, fun hs => (exec_keepsHandle c { s with pending := rest } t hs hc).sclCfg⟩
  · exact ⟨rfl, fun _ => rfl⟩

/-! ### The invariant (R19, R20, R23) -/

/-- Settles O52: after reset BUF and the trace are empty, and the pin fields are the reset pins. -/
theorem resetMeetsTheInvariant : Obligations.ResetMeetsTheInvariant := fun _ =>
  { bufWf := rfl
    pinsFollowTrace := rfl
    sampledInInput := rfl
    beforeInit := fun _ => ⟨rfl, rfl, rfl, rfl, rfl, rfl, rfl, rfl, rfl⟩
    afterInit := nofun }

/-- Where no command has run the invariant stays. -/
theorem NoCommandRan.inv {s t : State} (h : NoCommandRan s t) (hs : Inv s) : Inv t := by
  obtain ⟨_, _, _, _, _, _, rfl, hb⟩ := h
  exact ⟨hb hs.bufWf, hs.pinsFollowTrace, hs.sampledInInput, hs.beforeInit, hs.afterInit⟩

/-- The pin fields go on following the trace where they follow the events recorded since. -/
theorem PinsFollow.inv {s t : State} (h : PinsFollow s t) (hs : Inv s) :
    PinView.reset.replay t.trace = t.pins ∧ PinView.reset.samplesInInput t.trace = true := by
  obtain ⟨es, htrace, hpins, hsmp⟩ := h
  have hreplay : PinView.reset.replay (s.trace ++ es) = s.pins.replay es := by
    rw [← hs.pinsFollowTrace, PinView.replay, PinView.replay, PinView.replay, List.foldl_append]
  rw [htrace, samplesInInput_append, hs.sampledInInput, hs.pinsFollowTrace, hreplay]
  exact ⟨hpins.symm, hsmp⟩

/-- From INIT on every command keeps the invariant. -/
theorem exec_inv_afterInit (i : Instr) (s t : State) (hs : Inv s) (hi : s.initDone = true) (h : exec i s = .next t) : Inv t := by
  have hk := exec_keepsHandle i s t hi h
  obtain ⟨hscl, hdir⟩ := hs.afterInit hi
  obtain ⟨hdir', hfollow⟩ := hk.pins hdir
  obtain ⟨hpins, hsmp⟩ := hfollow.inv hs
  refine ⟨hk.bufWf hs.bufWf, hpins, hsmp, fun hn => ?_, fun _ => ⟨?_, hdir'⟩⟩
  · rw [hk.initDone, hi] at hn
    cases hn
  · rw [hk.sclCfg, hk.params, hscl]

/-- INIT configures both pins, each with the event that says so (40_pin_signaling.md R73). -/
theorem expansion_init_inv (s : State) (hs : Inv s) : Inv (expansion .init s) := by
  have hfollow : PinsFollow s (expansion .init s) := by
    refine ⟨[.cfg .scl s.params.sclMode.pinMode, .cfg .sda .od], by simp [expansion], ?_, rfl⟩
    cases h : s.params.sclMode <;>
      simp [expansion, State.pins, PinView.replay, PinView.apply, SclMode.pinMode, h]
  obtain ⟨hpins, hsmp⟩ := hfollow.inv hs
  exact ⟨hs.bufWf, hpins, hsmp, nofun, fun _ => ⟨rfl, nofun⟩⟩

/-- A refusal before INIT sets F_ILLEGAL or F_NOINIT, since the checks behind the other two bits ask for INIT_DONE
(60_exceptions.md R109), and so keeps the invariant. -/
theorem raiseFault_inv_beforeInit (i : Instr) (s : State) (f : FaultCode) (hs : Inv s) (hi : s.initDone = false)
    (hf : acceptance i s = some f) : Inv (s.raiseFault f) := by
  cases f with
  | illegal | noInit => exact NoCommandRan.inv ⟨_, _, _, _, _, _, rfl, id⟩ hs
  | rdOut | reinit =>
    simp only [acceptance] at hf
    split_ifs at hf <;> simp_all

/-- Settles O53: from INIT on every micro-operation keeps what the invariant says, and before it a command is INIT or refused. -/
theorem stepKeepsTheInvariant : Obligations.StepKeepsTheInvariant := by
  intro s t hs h
  rcases step_command_or_not s t h with ⟨w, rest, c, -, hc⟩ | hno
  · have hs' : Inv { s with pending := rest } := NoCommandRan.inv ⟨_, _, _, _, _, _, rfl, id⟩ hs
    cases hi : s.initDone with
    | true => exact exec_inv_afterInit c _ t hs' hi hc
    | false =>
      rcases exec_cases c _ t hc with ⟨f, hf, rfl⟩ | ⟨-, hinit, -, rfl⟩
      · exact raiseFault_inv_beforeInit c _ f hs' hi hf
      · obtain rfl := hinit.2 hi
        exact expansion_init_inv _ hs'
  · exact hno.inv hs

/-! ### SDA_DIR after a command (R20) -/

/-- A transaction ends with SDA in output mode, its address phase acknowledged or not. -/
theorem checkedAddress_sdaDir (dev : DevAddr) (rest : State → State) (s : State)
    (h : ∀ t, t.sdaDir = .output → (rest t).sdaDir = .output) : (checkedAddress dev rest s).sdaDir = .output := by
  rw [checkedAddress_eq]
  split
  · rfl
  · exact h _ rfl

/-- The end of a transaction leaves the direction as it is. -/
theorem closeTransaction_sdaDir (s : State) : (closeTransaction s).sdaDir = s.sdaDir := by
  simp [closeTransaction, callStop_eq]

/-- Settles O49: every primitive ends in the direction it found or in output mode, and a transaction in output mode. -/
theorem commandsReturnSdaToOutput : Obligations.CommandsReturnSdaToOutput := by
  intro i s t hi hs h
  rcases exec_cases i s t h with ⟨f, -, rfl⟩ | ⟨-, -, -, rfl⟩
  · rw [State.raiseFault_sdaDir, hs]
  · cases i with
    | init => rfl
    | setDir out => cases out <;> simp_all [expansion]
    | wrScl | wrSda | rdSda => exact hs
    | start | stop | sendByte | recvByte | waitAck | sendAck | sendNack =>
      simp [expansion, callStart_eq, callStop_eq, callSendByte_eq, callRecvByte_eq, waitAck_eq, callSendAck_eq,
        callSendNack_eq, hs]
    | writeOne dev reg val =>
      refine checkedAddress_sdaDir dev _ s fun u hu => ?_
      rw [closeTransaction_sdaDir, sendIgnored_eq]
    | writeMulti dev reg n =>
      refine checkedAddress_sdaDir dev _ s fun u hu => ?_
      rw [closeTransaction_sdaDir]
      exact (sendBuf_spec n.toNat 0 _ (by rw [sendIgnored_eq])).1
    | readOne dev reg =>
      rw [expansion, closeTransaction_sdaDir, callSendNack_eq, callRecvByte_eq]
    | readMulti dev reg n =>
      refine checkedAddress_sdaDir dev _ s fun u hu => ?_
      rw [closeTransaction_sdaDir]
      exact (recvBuf_spec n.toNat 0 _ (by rw [sendIgnored_eq]) (by simpa using n.isLt.le)).1

/-! ### STATUS, bit by bit (R37), and after reset (R18) -/

/-- A read of a bit field gives its value or the next draw, and moves the counter past the draw it took (R11). -/
theorem readBit_eq (h : Held Bit) (s : State) : ∃ b, ReadsAs s h s.draws b
    ∧ s.readBit h = (b, { s with draws := s.draws + drawsOf h }) := by
  cases h <;> exact ⟨_, rfl, rfl⟩

/-- A read of STATUS: the word, each of bits 5 to 7 with a draw of its own where its field is UNSPEC. -/
theorem readStatus_eq (s : State) : ∃ scl sda smp, ReadsAs s s.sclOut s.draws scl
    ∧ ReadsAs s s.sdaOut (s.draws + drawsOf s.sclOut) sda
    ∧ ReadsAs s s.sample (s.draws + drawsOf s.sclOut + drawsOf s.sdaOut) smp
    ∧ s.readStatus = (statusWord s scl sda smp,
        { s with draws := s.draws + drawsOf s.sclOut + drawsOf s.sdaOut + drawsOf s.sample }) := by
  obtain ⟨scl, hscl, h₁⟩ := readBit_eq s.sclOut s
  obtain ⟨sda, hsda, h₂⟩ := readBit_eq s.sdaOut { s with draws := s.draws + drawsOf s.sclOut }
  obtain ⟨smp, hsmp, h₃⟩ := readBit_eq s.sample { s with draws := s.draws + drawsOf s.sclOut + drawsOf s.sdaOut }
  exact ⟨scl, sda, smp, hscl, hsda, hsmp, by simp only [State.readStatus, h₁, h₂, h₃]⟩

/-- A step that takes up a read of STATUS. -/
theorem step_readStatus (s : State) (rest : List HostAccess) (h : s.pending = .read .word 0x004 :: rest) :
    step s = .next (State.reply (.word ({ s with pending := rest } : State).readStatus.1)
      ({ s with pending := rest } : State).readStatus.2) := by
  rw [step_cons s _ rest h]
  rfl

/-- The bits of a vector, bit 0 first, with 0 in every place past the list. -/
def HasBits {n : Nat} (x : BitVec n) (bits : List Bit) : Prop := ∀ k, x.getLsbD k = bits.getD k false

/-- A bit appended below the others is the first of the list. -/
theorem HasBits.append_ofBool {n : Nat} {x : BitVec n} {bits : List Bit} (h : HasBits x bits) (b : Bit) :
    HasBits (x ++ BitVec.ofBool b) (b :: bits) := by
  intro k
  rw [BitVec.getLsbD_append]
  cases k with
  | zero => simp
  | succ k => simpa using h k

/-- Zeros appended below the others stand first in the list. -/
theorem HasBits.append_zeros {n : Nat} {x : BitVec n} {bits : List Bit} (h : HasBits x bits) (m : Nat) :
    HasBits (x ++ 0#m) (List.replicate m false ++ bits) := by
  intro k
  rw [BitVec.getLsbD_append]
  split_ifs with hk
  · rw [List.getD_append _ _ _ _ (by simpa using hk)]
    simp [hk]
  · rw [h, List.getD_append_right _ _ _ _ (by simpa using hk), List.length_replicate]

/-- STATUS bit by bit, bit 0 first: the fields of R37 in their places and 0 in the reserved ones. -/
theorem statusWord_hasBits (s : State) (scl sda smp : Bit) : HasBits (statusWord s scl sda smp)
    ([s.result == .ackTimeout, s.ignNack, s.busState == .started, s.initDone, s.sdaDir == .output, scl, sda, smp, s.protoViol]
      ++ List.replicate 7 false ++ [s.fIllegal, s.fRdOut, s.fNoInit, s.fReinit]) := by
  have hzero : HasBits 0#12 [] := fun k => by simp
  exact hzero
    |>.append_ofBool _ |>.append_ofBool _ |>.append_ofBool _ |>.append_ofBool _ |>.append_zeros 7
    |>.append_ofBool _ |>.append_ofBool _ |>.append_ofBool _ |>.append_ofBool _ |>.append_ofBool _
    |>.append_ofBool _ |>.append_ofBool _ |>.append_ofBool _ |>.append_ofBool _

/-- Settles O15: the word is the fields bit by bit, and the three reads take their draws one after the other. -/
theorem statusReadsAsLaidOut : Obligations.StatusReadsAsLaidOut := by
  intro s rest hp k₆ k₇
  obtain ⟨scl, sda, smp, hscl, hsda, hsmp, hread⟩ := readStatus_eq { s with pending := rest }
  have hstep := step_readStatus s rest hp
  rw [hread] at hstep
  have hbits := statusWord_hasBits { s with pending := rest } scl sda smp
  refine ⟨_, _, hstep, rfl, rfl, ?_, ?_, hbits 1, ?_, hbits 3, ?_, ?_, ?_, ?_, rfl, hbits 8, ?_, hbits 16, hbits 17, hbits 18,
    hbits 19, fun k hk => (hbits k).trans (List.getD_eq_default _ _ hk)⟩
  · intro f hf
    cases f <;> simp_all [FieldName.same, State.reply]
  · rw [hbits 0]
    exact beq_iff_eq
  · rw [hbits 2]
    exact beq_iff_eq
  · rw [hbits 4]
    exact beq_iff_eq
  · rw [hbits 5]
    exact hscl
  · rw [hbits 6]
    exact hsda
  · rw [hbits 7]
    exact hsmp
  · intro k hlo hhi
    rw [hbits k]
    interval_cases k <;> rfl

/-- After power-on reset STATUS reads 0 outside bits 7:5, whatever is drawn for those (70_reset_and_hazards.md R127). -/
theorem statusWord_powerOn (p : Params) (scl sda smp : Bit) :
    statusWord (State.powerOn p) scl sda smp &&& 0xFFFFFF1F = 0 := by
  revert scl sda smp
  simp only [statusWord, State.powerOn]
  decide

/-- Settles O17: reset gives each field its value, and of STATUS only the three drawn bits can be other than 0. -/
theorem powerOnResetValues : Obligations.PowerOnResetValues := by
  intro p
  refine ⟨_, rfl, rfl, rfl, rfl, rfl, rfl, rfl, rfl, rfl, rfl, rfl, rfl, rfl, rfl, rfl, rfl, rfl, fun _ => rfl, rfl, ?_⟩
  obtain ⟨scl, sda, smp, -, -, -, hread⟩ := readStatus_eq (State.powerOn p)
  refine ⟨_, _, step_readStatus _ [] rfl, rfl, ?_⟩
  have hword : (State.powerOn p).readStatus.1 &&& 0xFFFFFF1F = 0 := by
    rw [hread]
    exact statusWord_powerOn p scl sda smp
  exact hword

end Sys2Proof.Machine

/-! PROOFS. The statements of 20_memory.md: a host access is served whole, and none while a command runs (R47). -/

namespace Sys2Proof.Machine

open Sys2Proof.Safety

/-- A word write to CMD is the host move that issues a command (20_memory.md R45). -/
theorem hostMove_writeCmd (w : Word) : hostMove (.write .word 0x000 w) = some (.command w) := rfl

/-- Issuing a word that decodes to a command executes that command (60_exceptions.md R109). -/
theorem hostStep_command {w : Word} {i : Instr} (h : decode w = .command i) (s : State) :
    hostStep (.command w) s = exec i s := by
  simp only [hostStep, issue, h]

/-- Settles O10: the access taken up is the move that issues the word, and issuing the word executes its command. -/
theorem stepRunsTheDecodedCommand : Obligations.StepRunsTheDecodedCommand := by
  intro s w rest i hp hw
  rw [step_cons s _ rest hp, hostMove_writeCmd]
  exact hostStep_command hw _

/-- Settles O56: a running engine's step is its next event, and the writes of an event reach no field of the host port. -/
theorem noHostAccessWhileRunning : Obligations.NoHostAccessWhileRunning := by
  intro e htodo
  have hkeeps : SameHost e.state e.event.state := nextEvent_keeps e.todo e.state
  exact ⟨e.event, e.step_running htodo, hkeeps.pending, hkeeps.replies, hkeeps.params⟩

end Sys2Proof.Machine

/-! PROOFS. The statements of 30_encoding.md: the decoder and the encoder are inverse (R63), the table of R64 and the reserved bits of
R67 say of a word what the decoder says of it, and the assembler's words are words of the encoder (R69). -/

namespace Sys2Proof

/-! ### The decoder, opcode by opcode (R56, R62) -/

/-- How a word that has the command's opcode is decoded: by the opcode's format (R58 to R61). -/
def Instr.decodeOperands (i : Instr) : Word → Decoded :=
  match i with
  | .setDir _ => decodeL .setDir
  | .wrScl _ => decodeL .wrScl
  | .wrSda _ => decodeL .wrSda
  | .sendByte _ => decodeB .sendByte
  | .writeOne .. => decodeT fun d r v => .command (.writeOne d r v)
  | .writeMulti .. => decodeT fun d r n => .command (.writeMulti d r n)
  | .readOne .. => decodeT readOneOf
  | .readMulti .. => decodeT readMultiOf
  | .init | .rdSda | .start | .stop | .recvByte | .waitAck | .sendAck | .sendNack => decodeN i

theorem decode_of_opcode {w : Word} {i : Instr} (h : field w 24 8 = i.opcode) : decode w = i.decodeOperands w := by
  rw [decode, h]
  cases i <;> rfl

/-- The opcodes of R62, as R67's list has them. -/
def assignedOpcodes : List Nat := formatN ++ formatL ++ [0x22] ++ formatT

theorem decode_unassigned {w : Word} (h : (field w 24 8).toNat ∉ assignedOpcodes) :
    decode w = .illegal .unassignedOpcode := by
  unfold decode
  split
  case h_17 => rfl
  all_goals next ho => exact absurd (by rw [ho]; decide) h

/-- One command of each mnemonic of R62, in the order of the table of R64. -/
def oneOfEach : List Instr :=
  [.init, .setDir false, .wrScl false, .wrSda false, .rdSda, .start, .stop, .sendByte 0, .recvByte, .waitAck, .sendAck, .sendNack,
   .writeOne 0 0 0, .writeMulti 0 0 0, .readOne 0 0, .readMulti 0 0 0]

theorem opcode_of_assigned {o : BitVec 8} (h : o.toNat ∈ assignedOpcodes) : ∃ i : Instr, o = i.opcode := by
  have hall : ∀ n ∈ assignedOpcodes, ∃ i ∈ oneOfEach, n = i.opcode.toNat := by decide
  obtain ⟨i, -, hi⟩ := hall _ h
  exact ⟨i, BitVec.eq_of_toNat_eq hi⟩

/-- Everything the decoder can do: decode the operands of an assigned opcode, or refuse an unassigned one (R63, R67). -/
theorem decode_cases (w : Word) :
    (∃ i : Instr, field w 24 8 = i.opcode ∧ decode w = i.decodeOperands w)
    ∨ ((field w 24 8).toNat ∉ assignedOpcodes ∧ decode w = .illegal .unassignedOpcode) := by
  by_cases h : (field w 24 8).toNat ∈ assignedOpcodes
  · obtain ⟨i, hi⟩ := opcode_of_assigned h
    exact .inl ⟨i, hi, decode_of_opcode hi⟩
  · exact .inr ⟨h, decode_unassigned h⟩

/-- Bits 31:24 of a command's word are its opcode (R56). -/
theorem opcode_encode (i : Instr) : field (encode i) 24 8 = i.opcode :=
  match i with
  | .setDir l | .wrScl l | .wrSda l => (fields_encodeL _ l).1
  | .sendByte v => (fields_encodeB _ v).1
  | .writeOne d r v => (fields_encodeT _ d r v).1
  | .writeMulti d r n => (fields_encodeT _ d r n).1
  | .readOne d r => (fields_encodeT _ d r 0).1
  | .readMulti d r n => (fields_encodeT _ d r n).1
  | .init | .rdSda | .start | .stop | .recvByte | .waitAck | .sendAck | .sendNack => (fields_encodeN _).1

/-! ### Decoding an encoding, format by format -/

theorem decodeN_encodeN (i : Instr) (o : BitVec 8) : decodeN i (encodeN o) = .command i :=
  if_pos (fields_encodeN o).2

theorem decodeL_encodeL (mk : Bit → Instr) (o : BitVec 8) (l : Bit) : decodeL mk (encodeL o l) = .command (mk l) := by
  obtain ⟨-, hspare, hl⟩ := fields_encodeL o l
  rw [decodeL, if_pos hspare, hl]

theorem decodeB_encodeB (mk : Byte → Instr) (o : BitVec 8) (v : Byte) : decodeB mk (encodeB o v) = .command (mk v) := by
  obtain ⟨-, hspare, hv⟩ := fields_encodeB o v
  rw [decodeB, if_pos hspare, hv]

theorem decodeT_encodeT (mk : DevAddr → Byte → Byte → Decoded) (o : BitVec 8) (d : DevAddr) (r v : Byte) :
    decodeT mk (encodeT o d r v) = mk d r v := by
  obtain ⟨-, hspare, hd, hr, hv⟩ := fields_encodeT o d r v
  rw [decodeT, if_pos hspare, hd, hr, hv]

theorem readMultiOf_wellFormed {d : DevAddr} {r n : Byte} (h : (Instr.readMulti d r n).WellFormed) :
    readMultiOf d r n = .command (.readMulti d r n) :=
  if_neg (bne_iff_ne.mp h)

theorem decodeOperands_encode {i : Instr} (h : i.WellFormed) : i.decodeOperands (encode i) = .command i :=
  match i with
  | .setDir l => decodeL_encodeL .setDir _ l
  | .wrScl l => decodeL_encodeL .wrScl _ l
  | .wrSda l => decodeL_encodeL .wrSda _ l
  | .sendByte v => decodeB_encodeB .sendByte _ v
  | .writeOne d r v => decodeT_encodeT (fun d r v => .command (.writeOne d r v)) _ d r v
  | .writeMulti d r n => decodeT_encodeT (fun d r n => .command (.writeMulti d r n)) _ d r n
  | .readOne d r => decodeT_encodeT readOneOf _ d r 0
  | .readMulti d r n => (decodeT_encodeT readMultiOf _ d r n).trans (readMultiOf_wellFormed h)
  | .init | .rdSda | .start | .stop | .recvByte | .waitAck | .sendAck | .sendNack => decodeN_encodeN _ _

/-- Settles O2: the opcode of the encoding picks the command's own format, and that format reads back each operand. -/
theorem decodeOfEncode : Obligations.DecodeOfEncode := by
  intro i h
  rw [decode_of_opcode (opcode_encode i), decodeOperands_encode h]

/-! ### Encoding a decoded command, format by format -/

theorem decodeN_command {i j : Instr} {w : Word} (h : decodeN j w = .command i) :
    i = j ∧ encodeN (field w 24 8) = w := by
  unfold decodeN at h
  split at h
  next hspare => exact ⟨(Decoded.command.inj h).symm, encodeN_fields w hspare⟩
  next => cases h

theorem decodeL_command {mk : Bit → Instr} {i : Instr} {w : Word} (h : decodeL mk w = .command i) :
    ∃ l, i = mk l ∧ encodeL (field w 24 8) l = w := by
  unfold decodeL at h
  split at h
  next hspare => exact ⟨_, (Decoded.command.inj h).symm, encodeL_fields w hspare⟩
  next => cases h

theorem decodeB_command {mk : Byte → Instr} {i : Instr} {w : Word} (h : decodeB mk w = .command i) :
    ∃ v, i = mk v ∧ encodeB (field w 24 8) v = w := by
  unfold decodeB at h
  split at h
  next hspare => exact ⟨_, (Decoded.command.inj h).symm, encodeB_fields w hspare⟩
  next => cases h

theorem decodeT_command {mk : DevAddr → Byte → Byte → Decoded} {i : Instr} {w : Word} (h : decodeT mk w = .command i) :
    ∃ d r v, mk d r v = .command i ∧ encodeT (field w 24 8) d r v = w := by
  unfold decodeT at h
  split at h
  next hspare => exact ⟨_, _, _, h, encodeT_fields w hspare⟩
  next => cases h

theorem readOneOf_command {i : Instr} {d : DevAddr} {r v : Byte} (h : readOneOf d r v = .command i) :
    v = 0 ∧ i = .readOne d r := by
  unfold readOneOf at h
  split at h
  next hv => exact ⟨hv, (Decoded.command.inj h).symm⟩
  next => cases h

theorem readMultiOf_command {i : Instr} {d : DevAddr} {r n : Byte} (h : readMultiOf d r n = .command i) :
    n ≠ 0 ∧ i = .readMulti d r n := by
  unfold readMultiOf at h
  split at h
  next => cases h
  next hn => exact ⟨hn, (Decoded.command.inj h).symm⟩

/-- A command read from a word of the opcode of `j` is well formed, has the mnemonic of `j`, and is spelled by the word. -/
theorem decodeOperands_command {i j : Instr} {w : Word} (ho : field w 24 8 = j.opcode)
    (h : j.decodeOperands w = .command i) : i.WellFormed ∧ i.mnemonic = j.mnemonic ∧ encode i = w := by
  cases j
  case setDir | wrScl | wrSda =>
    obtain ⟨l, rfl, hw⟩ := decodeL_command h
    exact ⟨rfl, rfl, by rwa [ho] at hw⟩
  case sendByte =>
    obtain ⟨v, rfl, hw⟩ := decodeB_command h
    exact ⟨rfl, rfl, by rwa [ho] at hw⟩
  case writeOne =>
    obtain ⟨d, r, v, hi, hw⟩ := decodeT_command (mk := fun d r v => .command (.writeOne d r v)) h
    cases hi
    exact ⟨rfl, rfl, by rwa [ho] at hw⟩
  case writeMulti =>
    obtain ⟨d, r, n, hi, hw⟩ := decodeT_command (mk := fun d r n => .command (.writeMulti d r n)) h
    cases hi
    exact ⟨rfl, rfl, by rwa [ho] at hw⟩
  case readOne =>
    obtain ⟨d, r, v, hi, hw⟩ := decodeT_command h
    obtain ⟨rfl, rfl⟩ := readOneOf_command hi
    exact ⟨rfl, rfl, by rwa [ho] at hw⟩
  case readMulti =>
    obtain ⟨d, r, n, hi, hw⟩ := decodeT_command h
    obtain ⟨hn, rfl⟩ := readMultiOf_command hi
    exact ⟨bne_iff_ne.mpr hn, rfl, by rwa [ho] at hw⟩
  all_goals
    obtain ⟨rfl, hw⟩ := decodeN_command h
    exact ⟨rfl, rfl, by rwa [ho] at hw⟩

/-- Settles O3: a legal word has an assigned opcode, and the format of that opcode puts the word together again. -/
theorem encodeOfDecode : Obligations.EncodeOfDecode := by
  intro w i h
  obtain ⟨j, ho, hd⟩ | ⟨-, hd⟩ := decode_cases w
  · obtain ⟨hwf, -, hw⟩ := decodeOperands_command ho (hd ▸ h)
    exact ⟨hwf, hw⟩
  · simp [hd] at h

/-! ### Fields and masks -/

theorem field_eq_zero_iff_bits (w : Word) (lo n : Nat) : field w lo n = 0 ↔ ∀ j < n, w.getLsbD (lo + j) = false := by
  refine ⟨fun h j hj => ?_, fun h => BitVec.eq_of_getLsbD_eq fun j hj => ?_⟩
  · simpa [hj] using congrArg (·.getLsbD j) h
  · simpa [hj] using h j hj

theorem and_fieldMask_eq_zero_iff_bits (w : Word) (lo n : Nat) :
    w &&& (BitVec.allOnes n).setWidth 32 <<< lo = 0 ↔ ∀ j < n, w.getLsbD (lo + j) = false := by
  refine ⟨fun h j hj => ?_, fun h => BitVec.eq_of_getLsbD_eq fun k hk => ?_⟩
  · by_contra hbit
    have hlt := BitVec.lt_of_getLsbD (Bool.not_eq_false _ ▸ hbit)
    have hj32 : j < 32 := by omega
    exact hbit (by simpa [hj, hj32, hlt] using congrArg (·.getLsbD (lo + j)) h)
  · by_cases hfield : lo ≤ k ∧ k - lo < n
    · have hbit := h (k - lo) hfield.2
      rw [Nat.add_sub_cancel' hfield.1] at hbit
      simp [hbit]
    · simp
      omega

/-- A field is 0 iff the word has no bit under the field's mask. -/
theorem field_eq_zero_iff (w : Word) (lo n : Nat) :
    field w lo n = 0 ↔ w &&& (BitVec.allOnes n).setWidth 32 <<< lo = 0 :=
  (field_eq_zero_iff_bits w lo n).trans (and_fieldMask_eq_zero_iff_bits w lo n).symm

theorem and_or_eq_zero (w m m' : Word) : w &&& (m ||| m') = 0 ↔ w &&& m = 0 ∧ w &&& m' = 0 := by
  rw [BitVec.and_or_distrib_left]
  simp

/-- A word is its opcode field beside its other 24 bits (R56). -/
theorem opcode_append (w : Word) : field w 24 8 ++ field w 0 24 = w := by
  have := w.isLt
  apply BitVec.eq_of_toNat_eq
  rw [append_toNat, field_toNat, field_toNat]
  omega

theorem opcode_append_inj {o o' : BitVec 8} {x x' : BitVec 24} : o ++ x = o' ++ x' ↔ o = o' ∧ x = x' := by
  refine ⟨fun h => ?_, fun ⟨ho, hx⟩ => by rw [ho, hx]⟩
  have h := congrArg BitVec.toNat h
  rw [append_toNat, append_toNat] at h
  constructor <;> apply BitVec.eq_of_toNat_eq <;> omega

/-- A mask that covers the opcode field picks the opcode, and leaves the rest of the mask to be 0 (R64). -/
theorem and_opcodeMask_eq_key (w : Word) (o : BitVec 8) (m : BitVec 24) :
    w &&& (0xFF#8 ++ m) = o ++ 0#24 ↔ field w 24 8 = o ∧ w &&& (0#8 ++ m) = 0 := by
  have hopc : field w 24 8 &&& 0xFF#8 = field w 24 8 := BitVec.and_allOnes
  have hzero : (0 : Word) = 0#8 ++ 0#24 := rfl
  rw [hzero]
  conv => lhs; rw [← opcode_append w, BitVec.and_append, opcode_append_inj, hopc]
  conv => rhs; rhs; rw [← opcode_append w, BitVec.and_append, opcode_append_inj]
  simp

/-! ### Which words of an opcode are legal -/

/-- The operand bits that are 0 in every legal word of the command's opcode: the reserved bits of its format (R58 to R61), and
READ_ONE's `VAL` (R65). -/
def Instr.mustBeZero (i : Instr) : BitVec 24 :=
  match i with
  | .setDir _ | .wrScl _ | .wrSda _ => 0xFFFFFE
  | .sendByte _ => 0xFFFF00
  | .writeOne .. | .writeMulti .. | .readMulti .. => 0x800000
  | .readOne .. => 0x8000FF
  | .init | .rdSda | .start | .stop | .recvByte | .waitAck | .sendAck | .sendNack => 0xFFFFFF

/-- The command's opcode takes a count that must not be 0 (R66). -/
def Instr.needsCount (i : Instr) : Bool :=
  match i with
  | .readMulti .. => true
  | .init | .setDir _ | .wrScl _ | .wrSda _ | .rdSda | .start | .stop | .sendByte _ | .recvByte
  | .waitAck | .sendAck | .sendNack | .writeOne .. | .writeMulti .. | .readOne .. => false

/-- The word meets the rules for the operands of the command's opcode (R58 to R61, R65, R66). -/
def Instr.LegalOperands (i : Instr) (w : Word) : Prop :=
  w &&& (0#8 ++ i.mustBeZero) = 0 ∧ (i.needsCount = true → field w 0 8 ≠ 0)

theorem legalOperands_of_noCount {i : Instr} (h : i.needsCount = false) (w : Word) :
    i.LegalOperands w ↔ w &&& (0#8 ++ i.mustBeZero) = 0 :=
  and_iff_left (by simp [h])

/-- A check before the answer: the word is legal iff it passes the check and the answer is a command. -/
theorem check_legal {p : Prop} [Decidable p] {d : Decoded} {why : IllegalWord} :
    (∃ c, (if p then d else .illegal why) = .command c) ↔ p ∧ ∃ c, d = .command c := by
  split <;> simp_all

theorem checkCommand_legal {p : Prop} [Decidable p] {i : Instr} {why : IllegalWord} :
    (∃ c, (if p then Decoded.command i else .illegal why) = .command c) ↔ p :=
  check_legal.trans (and_iff_left ⟨i, rfl⟩)

theorem decodeN_legal (i : Instr) (w : Word) : (∃ c, decodeN i w = .command c) ↔ w &&& 0x00FFFFFF = 0 :=
  checkCommand_legal.trans (field_eq_zero_iff w 0 24)

theorem decodeL_legal (mk : Bit → Instr) (w : Word) : (∃ c, decodeL mk w = .command c) ↔ w &&& 0x00FFFFFE = 0 :=
  checkCommand_legal.trans (field_eq_zero_iff w 1 23)

theorem decodeB_legal (mk : Byte → Instr) (w : Word) : (∃ c, decodeB mk w = .command c) ↔ w &&& 0x00FFFF00 = 0 :=
  checkCommand_legal.trans (field_eq_zero_iff w 8 16)

theorem decodeT_legal (mk : DevAddr → Byte → Byte → Decoded) (w : Word) :
    (∃ c, decodeT mk w = .command c)
      ↔ w &&& 0x00800000 = 0 ∧ ∃ c, mk (field w 16 7) (field w 8 8) (field w 0 8) = .command c :=
  check_legal.trans (and_congr_left' (field_eq_zero_iff w 23 1))

/-- A transaction that takes every value of its fields has only the reserved bit to respect (R61). -/
theorem decodeT_legal_of_command (mk : DevAddr → Byte → Byte → Instr) (w : Word) :
    (∃ c, decodeT (fun d r v => .command (mk d r v)) w = .command c) ↔ w &&& 0x00800000 = 0 :=
  (decodeT_legal _ w).trans (and_iff_left ⟨_, rfl⟩)

theorem readMultiOf_legal (d : DevAddr) (r n : Byte) : (∃ c, readMultiOf d r n = .command c) ↔ n ≠ 0 := by
  unfold readMultiOf
  split <;> simp_all

theorem readOne_mustBeZero (w : Word) :
    w &&& (0#8 ++ (0x8000FF : BitVec 24)) = 0 ↔ w &&& 0x00800000 = 0 ∧ w &&& 0x000000FF = 0 :=
  and_or_eq_zero w 0x00800000 0x000000FF

/-- `VAL`, format T's last field, is the word's low byte (R61). -/
theorem val_eq_zero_iff (w : Word) : field w 0 8 = 0 ↔ w &&& 0x000000FF = 0 := field_eq_zero_iff w 0 8

/-- A word of a command's opcode is legal iff its operands are. -/
theorem decodeOperands_legal (i : Instr) (w : Word) :
    (∃ c, i.decodeOperands w = .command c) ↔ i.LegalOperands w := by
  cases i
  case readMulti =>
    simp only [Instr.LegalOperands, Instr.mustBeZero, Instr.needsCount, forall_const]
    exact (decodeT_legal readMultiOf w).trans (and_congr_right' (readMultiOf_legal _ _ _))
  all_goals rw [legalOperands_of_noCount rfl, Instr.mustBeZero]
  case readOne =>
    rw [readOne_mustBeZero, ← val_eq_zero_iff]
    exact (decodeT_legal readOneOf w).trans (and_congr_right' checkCommand_legal)
  case setDir | wrScl | wrSda => exact decodeL_legal _ w
  case sendByte => exact decodeB_legal _ w
  case writeOne => exact decodeT_legal_of_command .writeOne w
  case writeMulti => exact decodeT_legal_of_command .writeMulti w
  all_goals exact decodeN_legal _ w

/-! ### The table (R64) -/

/-- The row of R64 a command belongs to. -/
def Instr.row (i : Instr) : OpRow := ⟨i.mnemonic, i.opcode ++ 0#24, 0xFF#8 ++ i.mustBeZero, i.needsCount⟩

theorem opTable_rows : opTable = oneOfEach.map Instr.row := by decide

theorem row_selects (i : Instr) (w : Word) :
    i.row.selects w = true ↔ field w 24 8 = i.opcode ∧ i.LegalOperands w := by
  simp only [OpRow.selects, Instr.row, Instr.LegalOperands, Bool.and_eq_true, beq_iff_eq, and_opcodeMask_eq_key, and_assoc]
  cases i.needsCount <;> simp

theorem exists_oneOfEach (i : Instr) : ∃ a ∈ oneOfEach, a.mnemonic = i.mnemonic ∧ a.opcode = i.opcode := by
  cases i <;> simp [oneOfEach, Instr.mnemonic, Instr.opcode]

/-- A mnemonic has one opcode (R62). -/
theorem opcode_of_mnemonic {i j : Instr} (h : i.mnemonic = j.mnemonic) : i.opcode = j.opcode := by
  have hall : ∀ a ∈ oneOfEach, ∀ b ∈ oneOfEach, a.mnemonic = b.mnemonic → a.opcode = b.opcode := by decide
  obtain ⟨a, ha, ham, hao⟩ := exists_oneOfEach i
  obtain ⟨b, hb, hbm, hbo⟩ := exists_oneOfEach j
  rw [← hao, ← hbo]
  exact hall a ha b hb (by rw [ham, hbm, h])

/-- A word decodes to a command of the mnemonic of `j` iff it has the opcode of `j` and legal operands for it. -/
theorem decode_mnemonic_iff (j : Instr) (w : Word) :
    (∃ i, decode w = .command i ∧ i.mnemonic = j.mnemonic) ↔ field w 24 8 = j.opcode ∧ j.LegalOperands w := by
  rw [← decodeOperands_legal]
  constructor
  · rintro ⟨i, hi, hm⟩
    have ho : field w 24 8 = j.opcode := by
      rw [← (encodeOfDecode w i hi).2, opcode_encode, opcode_of_mnemonic hm]
    exact ⟨ho, i, decode_of_opcode ho ▸ hi⟩
  · rintro ⟨ho, i, hi⟩
    obtain ⟨-, hm, -⟩ := decodeOperands_command ho hi
    exact ⟨i, (decode_of_opcode ho).trans hi, hm⟩

/-- Settles O4: a row selects the words of its opcode with legal operands, and those are the words that decode to its command. -/
theorem matchMaskTableIsExact : Obligations.MatchMaskTableIsExact := by
  intro r hr w
  rw [opTable_rows] at hr
  obtain ⟨j, -, rfl⟩ := List.mem_map.mp hr
  exact (row_selects j w).trans (decode_mnemonic_iff j w).symm

/-! ### Illegal words (R67) -/

theorem shiftRight_opcode (w : Word) : (w >>> 24).toNat = (field w 24 8).toNat := by
  have := w.isLt
  rw [field_toNat, BitVec.toNat_ushiftRight, Nat.shiftRight_eq_div_pow]
  omega

theorem illegal_iff_not_command (d : Decoded) : (∃ why, d = .illegal why) ↔ ¬ ∃ i, d = .command i := by
  cases d <;> simp

/-- A word of a command's opcode breaks the encoding iff it breaks the rules for that opcode's operands. -/
theorem breaksTheEncoding_of_opcode {i : Instr} {w : Word} (ho : field w 24 8 = i.opcode) :
    BreaksTheEncoding w ↔ ¬ i.LegalOperands w := by
  simp only [BreaksTheEncoding, shiftRight_opcode, ho]
  cases i
  case readMulti =>
    simp only [Instr.LegalOperands, ne_eq, val_eq_zero_iff]
    simp [formatN, formatL, formatT, Instr.opcode, Instr.mustBeZero, Instr.needsCount, imp_iff_not_or]
  all_goals rw [legalOperands_of_noCount rfl, Instr.mustBeZero]
  case readOne =>
    rw [readOne_mustBeZero, not_and_or]
    simp [formatN, formatL, formatT, Instr.opcode]
  all_goals simp [formatN, formatL, formatT, Instr.opcode]

theorem breaksTheEncoding_of_unassigned {w : Word} (ho : (field w 24 8).toNat ∉ assignedOpcodes) : BreaksTheEncoding w := by
  simp only [assignedOpcodes, List.mem_append, List.mem_singleton, not_or] at ho
  obtain ⟨⟨⟨hN, hL⟩, hB⟩, hT⟩ := ho
  rw [← shiftRight_opcode] at hN hL hB hT
  exact .inl ⟨hN, hL, hB, hT⟩

theorem illegal_iff_breaksTheEncoding (w : Word) : (∃ why, decode w = .illegal why) ↔ BreaksTheEncoding w := by
  obtain ⟨i, ho, hd⟩ | ⟨ho, hd⟩ := decode_cases w
  · rw [illegal_iff_not_command, hd, decodeOperands_legal, breaksTheEncoding_of_opcode ho]
  · exact iff_of_true ⟨_, hd⟩ (breaksTheEncoding_of_unassigned ho)

end Sys2Proof

namespace Sys2Proof.Machine

/-- Issuing an illegal word sets F_ILLEGAL and nothing else (60_exceptions.md R112). -/
theorem hostStep_illegal {w : Word} {why : IllegalWord} (h : decode w = .illegal why) (s : State) :
    hostStep (.command w) s = .next { s with fIllegal := true } := by
  simp only [hostStep, issue, h, State.raiseFault]

/-- Settles O5: the decoder refuses just the words of R67's list, and the CMD write of a refused word raises F_ILLEGAL. -/
theorem illegalWordsAreRefused : Obligations.IllegalWordsAreRefused := by
  refine ⟨illegal_iff_breaksTheEncoding, .inl (by decide), fun s w rest hp hw => ?_⟩
  obtain ⟨why, hd⟩ := (illegal_iff_breaksTheEncoding w).mpr hw
  rw [step_cons s _ rest hp, hostMove_writeCmd]
  exact hostStep_illegal hd _

/-! ### The assembler (R69) -/

theorem wellFormed_of_assembleLine {line : List Char} {i : Instr} (h : assembleLine line = .command i) : i.WellFormed := by
  simp only [assembleLine] at h
  split_ifs at h
  split at h
  · split_ifs at h with hw
    exact AsmLine.command.inj h ▸ hw
  · cases h

/-- A word of the assembler is the encoding of the command its line was read as. -/
theorem encode_of_assembleWord {line : List Char} {w : Word} (h : assembleWord line = some w) :
    ∃ i, assembleLine line = .command i ∧ encode i = w := by
  unfold assembleWord at h
  split at h
  next i hi => exact ⟨i, hi, Option.some.inj h⟩
  all_goals cases h

/-- Settles O9: the assembler refuses an ill-formed command, and the word of a well-formed one decodes to it. -/
theorem assembledWordsAreLegal : Obligations.AssembledWordsAreLegal := by
  intro line w h
  obtain ⟨i, hi, rfl⟩ := encode_of_assembleWord h
  have hw := wellFormed_of_assembleLine hi
  exact ⟨i, hi, hw, decodeOfEncode i hw⟩

/-! ### The example words (R61, R70, R71) -/

/-- The word of format T, field by field from the top (R61). -/
theorem encodeT_eq_or (o : BitVec 8) (d : DevAddr) (r v : Byte) :
    encodeT o d r v = BitVec.ofNat 32 (o.toNat <<< 24 ||| d.toNat <<< 16 ||| r.toNat <<< 8 ||| v.toNat) := by
  have h : (encodeT o d r v).toNat = o.toNat <<< 24 ||| d.toNat <<< 16 ||| r.toNat <<< 8 ||| v.toNat := by
    refine (BitVec.toNat_append (o ++ 0#1 ++ d ++ r) v).trans ?_
    rw [BitVec.toNat_append, BitVec.toNat_append, BitVec.toNat_append]
    simp [Nat.shiftLeft_or_distrib, ← Nat.shiftLeft_add]
  rw [← h, BitVec.ofNat_toNat, BitVec.setWidth_eq]

/-- Settles O6: each transaction's word is the format's, with READ_ONE's value 0 (R65). -/
theorem transactionWordFormula : Obligations.TransactionWordFormula := by
  intro dev reg val
  refine ⟨encodeT_eq_or _ dev reg val, encodeT_eq_or _ dev reg val, ?_, encodeT_eq_or _ dev reg val⟩
  rintro rfl
  exact encodeT_eq_or _ dev reg 0

/-- No WRITE_ONE word is above the one with every field at its largest (R71). -/
theorem encode_writeOne_le (dev : DevAddr) (reg val : Byte) : (encode (.writeOne dev reg val)).toNat ≤ 0x307FFFFF := by
  have := dev.isLt
  have := reg.isLt
  have := val.isLt
  have ho : (Instr.writeOne dev reg val).opcode.toNat = 0x30 := rfl
  rw [encode, encodeT_toNat, ho]
  omega

/-- Settles O1: the fixed words by evaluation, the bound on WRITE_ONE's words by the value of format T. -/
theorem specExampleWordsDecode : Obligations.SpecExampleWordsDecode := by
  simp only [Obligations.SpecExampleWordsDecode, encode_writeOne_le, implies_true, true_and]
  decide

/-- The word of format B, its byte below the opcode (R60). -/
theorem encodeB_eq_or (o : BitVec 8) (v : Byte) : encodeB o v = (o ++ 0#24) ||| v.setWidth 32 := by
  apply BitVec.eq_of_toNat_eq
  refine (BitVec.toNat_append (o ++ 0#16) v).trans ?_
  rw [BitVec.toNat_or, BitVec.toNat_append, BitVec.toNat_append, BitVec.toNat_setWidth_of_le (by decide)]
  simp [← Nat.shiftLeft_add]

/-- SEND_ADDR's word is SEND_BYTE's opcode over the address byte (R70). -/
theorem encode_sendAddr (dev : DevAddr) (rw : Bit) :
    encode (Pseudo.sendAddr dev rw).expand = 0x22000000 ||| (addrByte dev rw).setWidth 32 :=
  encodeB_eq_or 0x22 (addrByte dev rw)

/-- Settles O8: the lines by evaluation, SEND_ADDR for every operand by the word of format B. -/
theorem assemblerExamples : Obligations.AssemblerExamples := by
  simp only [Obligations.AssemblerExamples, encode_sendAddr, implies_true, true_and]
  decide

end Sys2Proof.Machine

/-! PROOFS. The statements of 40_pin_signaling.md: INIT and the pin-level commands (R73 to R78), with the edges they are (R35). -/

namespace Sys2Proof.Safety

open Sys2Proof.Machine

/-! ### Frames -/

/-- One run after another changes what either changes. -/
theorem KeepsAllBut.trans {as bs : List FieldName} {s t u : State} (h : KeepsAllBut as s t) (h' : KeepsAllBut bs t u) :
    KeepsAllBut (as ++ bs) s u := by
  intro f hf
  obtain ⟨ha, hb⟩ := not_or.1 (mt List.mem_append.2 hf)
  have hst := h f ha
  have htu := h' f hb
  cases f
  case buf => exact fun i => (htu i).trans (hst i)
  all_goals exact Eq.trans htu hst

/-- A longer list of changed fields says less. -/
theorem KeepsAllBut.mono {as bs : List FieldName} {s t : State} (h : KeepsAllBut as s t) (hsub : as ⊆ bs) :
    KeepsAllBut bs s t :=
  fun f hf => h f (mt (@hsub f) hf)

end Sys2Proof.Safety

namespace Sys2Proof.Machine

open Sys2Proof.Safety

/-- The one field a write writes. -/
def Write.field : Write → FieldName
  | .initDone => .initDone
  | .checkProto _ => .protoViol
  | .busState _ => .busState
  | .result _ => .result
  | .ignNack _ => .ignNack
  | .rxData _ => .rxData
  | .store .. => .buf

/-- A write changes its one field. -/
theorem Write.apply_keepsAllBut (w : Write) (s : State) : KeepsAllBut [w.field] s (w.apply s) := by
  intro f hf
  cases w <;> cases f <;> simp [Write.field, Write.apply, FieldName.same] at hf ⊢

/-- The fields a micro-operation changes: the trace for its event, and what the event and its writes set (R74). -/
def Micro.fields : Micro → List FieldName
  | .before w | .after w => [w.field]
  | .cfgScl => [.trace, .sclCfg]
  | .cfgSda _ => [.trace, .sdaDir]
  | .drvScl _ => [.trace, .sclOut]
  | .drvSda _ => [.trace, .sdaOut]
  | .wait => [.trace]
  | .sampleLine => [.trace, .sample, .env]
  | .sampleBit .. | .samplePoll .. => [.trace, .env]
  | .sendFrom _ => [.trace, .sclOut, .protoViol, .draws]

/-- A micro-operation changes its own fields and nothing else. -/
theorem Micro.run_keepsAllBut (m : Micro) (q : List Micro) (s : State) : KeepsAllBut m.fields s (m.run q s).2 := by
  cases m with
  | before w | after w => exact w.apply_keepsAllBut s
  | cfgSda out =>
    intro f hf
    cases out <;> cases f <;> simp [Micro.fields, Micro.run, FieldName.same] at hf ⊢
  | _ =>
    intro f hf
    cases f <;> simp [Micro.fields, Micro.run, FieldName.same] at hf ⊢

/-- RESULT after a micro-operation, as the pin-level commands end (R75 to R78). -/
theorem Micro.run_setResult_keepsAllBut (m : Micro) (r : Result) (s : State) :
    KeepsAllBut (m.fields ++ [.result]) s ((m.run [] s).2.setResult r) :=
  (m.run_keepsAllBut [] s).trans (Write.apply_keepsAllBut (.result r) _)

/-! ### How a command is spelled, and its refusal before INIT -/

/-- A command that has an encoding is spelled by it and by no other word (30_encoding.md R63). -/
theorem spelledOnlyBy_encode {i : Instr} (h : i.WellFormed) : SpelledOnlyBy i (encode i) := by
  intro w
  constructor
  · exact fun hw => (encodeOfDecode w i hw).2.symm
  · rintro rfl
    exact decodeOfEncode i h

/-- The refusal of every other command before INIT sets F_NOINIT alone (60_exceptions.md R109). -/
theorem refusedBeforeInit {i : Instr} (h : i.WellFormed) (hi : i ≠ .init) : RefusedBeforeInit i :=
  fun s hs => exec_noInit i s h hi hs

/-! ### INIT (R73) -/

/-- The micro-operations of INIT, one after the other: each changes its own fields. -/
theorem expansion_init_keepsAllBut (s : State) :
    KeepsAllBut [.trace, .sclCfg, .sdaDir, .initDone, .result] s (expansion .init s) :=
  (Micro.run_keepsAllBut .cfgScl [] s)
    |>.trans (Micro.run_keepsAllBut (.cfgSda true) [] _)
    |>.trans (Write.apply_keepsAllBut .initDone _)
    |>.trans (Write.apply_keepsAllBut (.result .ok) _)
    |>.mono (by decide)

/-- Settles O18: INIT's word is its encoding, the second INIT fails its check, and the first runs its two `Cfg` events. -/
theorem initCreatesTheHandle : Obligations.InitCreatesTheHandle := by
  refine ⟨spelledOnlyBy_encode (i := .init) rfl, fun s hs => (exec_eq .init s).trans (execute_reinit s _ hs), fun s hs => ?_⟩
  exact ⟨_, exec_accepted .init s rfl (by simp [hs]) nofun, List.append_assoc _ _ _, rfl, rfl, rfl, rfl,
    expansion_init_keepsAllBut s⟩

/-! ### Edges (10_state.md R35) -/

/-- A reading of the pins has their direction; only a latch may be read in two ways. -/
theorem PinView.dir_of_mem_wires {p : PinView} {w : Wire} (h : w ∈ p.wires) : w.dir = p.sdaDir := by
  obtain ⟨scl, -, h⟩ := List.mem_flatMap.1 h
  obtain ⟨sda, -, rfl⟩ := List.mem_map.1 h
  rfl

/-- The pins have a reading, whatever the latches hold. -/
theorem PinView.wires_ne_nil (p : PinView) : p.wires ≠ [] := by
  rcases p with ⟨_, _, _ | _, _ | _⟩ <;> exact List.cons_ne_nil _ _

/-- An event that is the same bus condition in every reading of the pins is that one condition. -/
theorem PinView.edges_eq_singleton {p : PinView} {e : PinEvent} {x : Edge} (h : ∀ w ∈ p.wires, w.edge e = x) :
    p.edges e = [x] := by
  rw [PinView.edges, List.map_congr_left h, List.map_const']
  exact List.replicate_dedup (mt List.length_eq_zero_iff.1 p.wires_ne_nil)

/-- Where both latches are known, the pins have one reading. -/
theorem PinView.edges_of_latches {p : PinView} {scl sda : Bit} (hscl : p.sclOut = .val scl) (hsda : p.sdaOut = .val sda)
    (e : PinEvent) : p.edges e = [Wire.edge ⟨p.sdaDir, scl, sda⟩ e] := by
  simp [PinView.edges, PinView.wires, hscl, hsda, Held.readings]

/-- In input mode a drive of SDA does not reach the line (R22). -/
theorem PinView.edges_drvSda_input {p : PinView} (hd : p.sdaDir = .input) (l : Bit) : p.edges (.drv .sda l) = [.none] := by
  refine PinView.edges_eq_singleton fun w hw => ?_
  have hdir : w.dir = .input := (PinView.dir_of_mem_wires hw).trans hd
  simp [Wire.edge, Wire.apply, Wire.sdaMaster, hdir]

/-! ### The pin-level commands (R75 to R78) -/

/-- Settles O21: the micro-operation of either direction records its `Cfg`, and with both latches known the switch to output is
one bus condition. -/
theorem setDirEffect : Obligations.SetDirEffect := by
  refine ⟨spelledOnlyBy_encode (i := .setDir false) rfl, spelledOnlyBy_encode (i := .setDir true) rfl,
    fun out => refusedBeforeInit rfl nofun, fun out s hs => ?_⟩
  refine ⟨_, exec_run _ s rfl nofun nofun hs, (Micro.run_emits (.cfgSda out) [] s).1, ?_, rfl, ?_, fun _ hd hsda hscl => ?_⟩
  · cases out <;> rfl
  · exact Micro.run_setResult_keepsAllBut (.cfgSda out) .ok s
  · rw [PinView.edges_of_latches hscl hsda, State.pins, hd]
    rfl

/-- Settles O22: past the check the expansion is the drive and the write of RESULT. -/
theorem wrSclEffect : Obligations.WrSclEffect := by
  refine ⟨spelledOnlyBy_encode (i := .wrScl false) rfl, spelledOnlyBy_encode (i := .wrScl true) rfl,
    fun l => refusedBeforeInit rfl nofun, fun l s hs => ?_⟩
  exact ⟨_, exec_run _ s rfl nofun nofun hs, rfl, rfl, rfl,
    Micro.run_setResult_keepsAllBut (.drvScl l) .ok s⟩

/-- Settles O23: the drive sets the latch in either mode; in input mode no reading of the pins has an edge, in output mode
both latches are known and there is one reading. -/
theorem wrSdaEffect : Obligations.WrSdaEffect := by
  refine ⟨spelledOnlyBy_encode (i := .wrSda false) rfl, spelledOnlyBy_encode (i := .wrSda true) rfl,
    fun l => refusedBeforeInit rfl nofun, fun l s hs => ?_⟩
  refine ⟨_, exec_run _ s rfl nofun nofun hs, rfl, rfl, rfl, ?_, fun hd => PinView.edges_drvSda_input hd l,
    fun hd hscl hsda => ?_⟩
  · exact Micro.run_setResult_keepsAllBut (.drvSda l) .ok s
  · rw [PinView.edges_of_latches hscl hsda, State.pins, hd]
    cases l <;> rfl

/-- Settles O24: the answer to the sample is the next one held, or `env_sda` of the trace (R32; log 2). -/
theorem rdSdaEffect : Obligations.RdSdaEffect := by
  refine ⟨spelledOnlyBy_encode (i := .rdSda) rfl, refusedBeforeInit rfl nofun,
    fun s hs hd => (exec_eq .rdSda s).trans (execute_rdOut s _ hs hd), fun s hs hd => ?_⟩
  refine ⟨_, s.envAnswer, exec_accepted .rdSda s rfl (by simp [hs]) fun _ => hd, rfl, rfl, rfl,
    fun a rest he => ?_, fun he => ?_, ?_⟩
  · exact ⟨s.envAnswer_cons a rest he, congrArg List.tail he⟩
  · exact ⟨s.envAnswer_nil he, congrArg List.tail he⟩
  · exact (Micro.run_setResult_keepsAllBut .sampleLine .ok s).mono (by decide)

end Sys2Proof.Machine

/-! PROOFS. The statements of 41_primitives.md: each primitive's events, end state, frame and edges (R81 to R96), the delay after
every edge (R82), and that its length changes nothing else (R136). -/

namespace Sys2Proof.Machine

open Sys2Proof.Safety

/-! ### What each primitive does once INIT has run, as one record update -/

section
variable (s : State) (hs : s.initDone = true)
include hs

/-- START (R81). -/
theorem exec_start : exec .start s = .next
    { s with protoViol := s.protoViol || s.sdaDir == .input, sdaOut := .val false, sclOut := .val false, busState := .started,
             result := .ok, trace := s.trace ++ startEvents s.params.tD } := by
  rw [exec_run .start s rfl nofun nofun hs, expansion, callStart_eq, State.setResult]

/-- STOP (R84). -/
theorem exec_stop : exec .stop s = .next
    { s with protoViol := s.protoViol || s.sdaDir == .input, sdaOut := .val true, sclOut := .val true, busState := .idle,
             result := .ok, trace := s.trace ++ stopEvents s.params.tD } := by
  rw [exec_run .stop s rfl nofun nofun hs, expansion, callStop_eq, State.setResult]

/-- SEND_BYTE (R86). -/
theorem exec_sendByte (v : Byte) : exec (.sendByte v) s = .next
    { s with protoViol := s.protoViol || s.busState == .idle || s.sdaDir == .input, sdaOut := .val (v.getLsbD 0),
             sclOut := .val false, result := .ok, trace := s.trace ++ sendByteEvents s.params.tD v } := by
  rw [exec_run (.sendByte v) s rfl nofun nofun hs, expansion, callSendByte_eq, State.setResult]

/-- RECV_BYTE (R88). -/
theorem exec_recvByte : exec .recvByte s = .next
    { s with protoViol := s.protoViol || s.busState == .idle, sdaDir := .output, sclOut := .val false,
             rxData := .val (receivedByte s), result := .ok, env := s.env.drop 8,
             trace := s.trace ++ recvByteEvents s.params.tD (receivedByte s) } := by
  rw [exec_run .recvByte s rfl nofun nofun hs, expansion, callRecvByte_eq, State.setResult]

/-- WAIT_ACK, by how it ends (R91). -/
theorem exec_waitAck : exec .waitAck s = .next
    { s with protoViol := s.protoViol || s.busState == .idle, sdaDir := .output, sclOut := .val (ackResult s).timedOut,
             sdaOut := if (ackResult s).timedOut then .val true else s.sdaOut,
             busState := if (ackResult s).timedOut then .idle else s.busState,
             result := if (ackResult s).timedOut then .ackTimeout else .ok,
             env := s.env.drop (samplesTaken s.params.ackPollBudget (ackResult s)),
             trace := s.trace ++ waitAckEvents s.params.tD s.params.ackPollBudget (ackResult s) } := by
  rw [exec_run .waitAck s rfl nofun nofun hs, expansion, waitAck_eq]
  cases ackResult s <;> rfl

/-- SEND_ACK (R94). -/
theorem exec_sendAck : exec .sendAck s = .next
    { s with protoViol := s.protoViol || s.busState == .idle || s.sdaDir == .input, sdaOut := .val false, sclOut := .val false,
             result := .ok, trace := s.trace ++ sendAckEvents s.params.tD } := by
  rw [exec_run .sendAck s rfl nofun nofun hs, expansion, callSendAck_eq, State.setResult]

/-- SEND_NACK (R95). -/
theorem exec_sendNack : exec .sendNack s = .next
    { s with protoViol := s.protoViol || s.busState == .idle || s.sdaDir == .input, sdaOut := .val true, sclOut := .val false,
             result := .ok, trace := s.trace ++ sendNackEvents s.params.tD } := by
  rw [exec_run .sendNack s rfl nofun nofun hs, expansion, callSendNack_eq, State.setResult]

end

/-! ### Frames -/

/-- Drives change the latches and the trace; a primitive made of them sets PROTO_VIOL and RESULT besides. -/
theorem keepsAllBut_of_drives (s : State) (sda scl : Held Bit) (v : Bit) (r : Result) (es : List PinEvent) :
    KeepsAllBut [.trace, .sdaOut, .sclOut, .result, .protoViol] s
      { s with protoViol := v, sdaOut := sda, sclOut := scl, result := r, trace := es } := by
  intro f hf
  cases f <;> simp [FieldName.same] at hf ⊢

/-- START and STOP set BUS_STATE too. -/
theorem keepsAllBut_of_condition (s : State) (sda scl : Held Bit) (v : Bit) (b : BusState) (r : Result) (es : List PinEvent) :
    KeepsAllBut [.trace, .sdaOut, .sclOut, .busState, .result, .protoViol] s
      { s with protoViol := v, sdaOut := sda, sclOut := scl, busState := b, result := r, trace := es } :=
  (keepsAllBut_of_drives s sda scl v r es).trans (Write.apply_keepsAllBut (.busState b) _)
    |>.mono (by simp [Write.field])

/-! ### Edges along a run of events (10_state.md R35) -/

/-- The bus condition of an event is that of the event on the pins the events before it leave. -/
theorem PinView.edgesAlong_getElem? {es : List PinEvent} {k : Nat} {e : PinEvent} (h : es[k]? = some e) (p : PinView) :
    (p.edgesAlong es)[k]? = some ((p.replay (es.take k)).edges e) := by
  induction es generalizing k p with
  | nil => simp at h
  | cons x es ih =>
    cases k with
    | zero =>
      obtain rfl := Option.some.inj h
      rfl
    | succ k => exact ih h (p.apply x)

/-- The bus condition of an event, from the direction and the latches that the events before it leave. -/
theorem PinView.edgesAlong_of_latches {p : PinView} {es : List PinEvent} {k : Nat} {e : PinEvent} {dir : SdaDir}
    {scl sda : Bit} {x : Edge} (he : es[k]? = some e) (hdir : (p.replay (es.take k)).sdaDir = dir)
    (hscl : (p.replay (es.take k)).sclOut = .val scl) (hsda : (p.replay (es.take k)).sdaOut = .val sda)
    (hx : Wire.edge ⟨dir, scl, sda⟩ e = x) : (p.edgesAlong es)[k]? = some [x] := by
  rw [PinView.edgesAlong_getElem? he, PinView.edges_of_latches hscl hsda, hdir, hx]

/-- A run has no edge where its first event is none and the rest has none. -/
theorem noEdges_cons (p : PinView) (e : PinEvent) (es : List PinEvent) :
    noEdges p (e :: es) ↔ p.edges e = [.none] ∧ noEdges (p.apply e) es :=
  List.forall_mem_cons

/-- Two runs have no edge, one after the other, where neither has. -/
theorem noEdges_append (p : PinView) (es fs : List PinEvent) :
    noEdges p (es ++ fs) ↔ noEdges p es ∧ noEdges (p.replay es) fs := by
  induction es generalizing p with
  | nil => simp [noEdges, PinView.edgesAlong, PinView.replay]
  | cons e es ih =>
    rw [List.cons_append, noEdges_cons, ih, noEdges_cons, and_assoc]
    rfl

/-- Where the clock latch is known, every reading of the pins has its level. -/
theorem PinView.scl_of_mem_wires {p : PinView} {w : Wire} {l : Bit} (hl : p.sclOut = .val l) (h : w ∈ p.wires) : w.scl = l := by
  obtain ⟨scl, hscl, h⟩ := List.mem_flatMap.1 h
  obtain ⟨sda, -, rfl⟩ := List.mem_map.1 h
  simpa [hl, Held.readings] using hscl

/-- With the clock low no event is an edge. -/
theorem PinView.edges_of_scl_low {p : PinView} (h : p.sclOut = .val false) (e : PinEvent) : p.edges e = [.none] := by
  refine PinView.edges_eq_singleton fun w hw => ?_
  simp [Wire.edge, PinView.scl_of_mem_wires h hw]

/-- An event that leaves the engine's level on the data line as it is is no edge. -/
theorem Wire.edge_eq_none {w : Wire} {e : PinEvent} (h : (w.apply e).sdaMaster = w.sdaMaster) : w.edge e = .none := by
  rw [Wire.edge, h]
  cases w.sdaMaster <;> simp

/-- A drive of the clock is no edge. -/
theorem PinView.edges_drvScl (p : PinView) (l : Bit) : p.edges (.drv .scl l) = [.none] :=
  PinView.edges_eq_singleton fun _ _ => Wire.edge_eq_none rfl

/-- A delay is no edge. -/
theorem PinView.edges_wait (p : PinView) (d : Nat) : p.edges (.wait d) = [.none] :=
  PinView.edges_eq_singleton fun _ _ => Wire.edge_eq_none rfl

/-- A bit on a clock pulse is no edge, since SDA changes while SCL is low (R87). -/
theorem noEdges_bitOutEvents (p : PinView) (d : Nat) (b : Bit) : noEdges p (bitOutEvents d b) := by
  simp only [bitOutEvents, noEdges_cons, PinView.edges_drvScl, PinView.edges_wait, true_and]
  exact ⟨PinView.edges_of_scl_low rfl _, nofun⟩

/-- Bits on clock pulses are no edges, one after the other. -/
theorem noEdges_bitsOut (p : PinView) (d : Nat) (bs : List Bit) : noEdges p (bs.flatMap (bitOutEvents d)) := by
  induction bs generalizing p with
  | nil => exact nofun
  | cons b bs ih => exact (noEdges_append _ _ _).2 ⟨noEdges_bitOutEvents p d b, ih _⟩

/-- SEND_BYTE holds no edge (R87). -/
theorem noEdges_sendByteEvents (p : PinView) (d : Nat) (v : Byte) : noEdges p (sendByteEvents d v) := by
  refine (noEdges_append _ _ _).2 ⟨noEdges_bitsOut p d _, ?_⟩
  simp only [noEdges_cons, PinView.edges_drvScl, PinView.edges_wait, true_and]
  exact nofun

/-- In input mode START holds no edge: neither drive of SDA reaches the line (R22). -/
theorem noEdges_startEvents_input {p : PinView} (hd : p.sdaDir = .input) (d : Nat) : noEdges p (startEvents d) := by
  simp only [startEvents, noEdges_cons, PinView.edges_drvScl, PinView.edges_wait, PinView.edges_drvSda_input hd, true_and]
  exact ⟨PinView.edges_drvSda_input (by exact hd) _, nofun⟩

/-! ### START and STOP (R81, R84) -/

/-- Settles O25: the events are the law's, and the edges are those of its drives of SDA on the latches before them. -/
theorem startEffect : Obligations.StartEffect := by
  refine ⟨spelledOnlyBy_encode (i := .start) rfl, refusedBeforeInit rfl nofun, fun s hs => ?_⟩
  refine ⟨_, exec_start s hs, rfl, rfl, rfl, rfl, rfl, rfl, ?_, fun hd => ?_, fun hd hscl hsda => ?_, fun hd => ?_⟩
  · exact keepsAllBut_of_condition s _ _ _ _ _ _
  · exact PinView.edgesAlong_of_latches rfl hd rfl rfl rfl
  · exact PinView.edgesAlong_of_latches rfl hd hscl hsda rfl
  · exact noEdges_startEvents_input hd s.params.tD

/-- Settles O26: event 7 drives SDA from low to high with the clock high, as the drives before it have left them. -/
theorem stopEffect : Obligations.StopEffect := by
  refine ⟨spelledOnlyBy_encode (i := .stop) rfl, refusedBeforeInit rfl nofun, fun s hs => ?_⟩
  refine ⟨_, exec_stop s hs, rfl, rfl, rfl, rfl, rfl, rfl, ?_, fun hd => ?_⟩
  · exact keepsAllBut_of_condition s _ _ _ _ _ _
  · exact PinView.edgesAlong_of_latches rfl hd rfl rfl rfl

/-! ### SEND_BYTE and RECV_BYTE (R86 to R89) -/

/-- Settles O27: the law's events hold no edge, since each bit is set up while the clock is low. -/
theorem sendByteEffect : Obligations.SendByteEffect := by
  refine ⟨fun v => ⟨?_, refusedBeforeInit rfl nofun⟩, fun v s hs => ?_⟩
  · rw [show 0x22000000 ||| v.setWidth 32 = encode (.sendByte v) from (encodeB_eq_or 0x22 v).symm]
    exact spelledOnlyBy_encode rfl
  · exact ⟨_, exec_sendByte s hs v, rfl, rfl, rfl, rfl, rfl, rfl, (keepsAllBut_of_drives s _ _ _ _ _).mono (by decide),
      noEdges_sendByteEvents s.pins s.params.tD v⟩

/-- RECV_BYTE changes the byte and the direction besides, and takes answers. -/
theorem keepsAllBut_of_recvByte (s : State) (dir : SdaDir) (scl : Held Bit) (v : Bit) (x : Held Byte) (r : Result)
    (env : List Bit) (es : List PinEvent) :
    KeepsAllBut [.trace, .rxData, .sclOut, .sdaDir, .result, .protoViol, .env] s
      { s with protoViol := v, sdaDir := dir, sclOut := scl, rxData := x, result := r, env := env, trace := es } := by
  intro f hf
  cases f <;> simp [FieldName.same] at hf ⊢

/-- Settles O28: the law's samples are the bits of the byte received, and the switch back to output mode finds the clock low. -/
theorem recvByteEffect : Obligations.RecvByteEffect := by
  refine ⟨spelledOnlyBy_encode (i := .recvByte) rfl, refusedBeforeInit rfl nofun, fun s hs => ?_⟩
  refine ⟨_, receivedByte s, exec_recvByte s hs, rfl, rfl, rfl, rfl, rfl, rfl, rfl, ?_, ?_⟩
  · exact keepsAllBut_of_recvByte s _ _ _ _ _ _ _
  · rw [PinView.edgesAlong_getElem? (e := .cfg .sda .od) rfl, PinView.edges_of_scl_low rfl]

/-- Settles O29: the answers held are the samples taken, and a byte's bits shifted in give it back. -/
theorem receiveInvertsSend : Obligations.ReceiveInvertsSend := by
  intro v s rest hs henv
  have hbits : answersIn 8 (s.checkProto .recvByte).sdaToInput = msbFirst v := answersIn_env (msbFirst v) rest _ henv
  have hbyte : receivedByte s = v := by rw [receivedByte, hbits, shiftInBits_msbFirst]
  exact ⟨_, exec_recvByte s hs, congrArg Held.val hbyte, by rw [henv]; rfl⟩

/-! ### WAIT_ACK (R91 to R93) -/

/-- What a Wait-Ack may change: the direction, the latches, BUS_STATE and RESULT, and the answers it takes. -/
theorem keepsAllBut_of_waitAck (s : State) (dir : SdaDir) (scl sda : Held Bit) (v : Bit) (b : BusState) (r : Result)
    (env : List Bit) (es : List PinEvent) :
    KeepsAllBut [.trace, .sdaDir, .sclOut, .sdaOut, .busState, .result, .protoViol, .env] s
      { s with protoViol := v, sdaDir := dir, sclOut := scl, sdaOut := sda, busState := b, result := r, env := env,
               trace := es } := by
  intro f hf
  cases f <;> simp [FieldName.same] at hf ⊢

/-- Settles O30: the law by the result, which the budget allows. -/
theorem waitAckEffect : Obligations.WaitAckEffect := by
  refine ⟨spelledOnlyBy_encode (i := .waitAck) rfl, refusedBeforeInit rfl nofun, fun s hs => ?_⟩
  refine ⟨_, ackResult s, exec_waitAck s hs, ackResult_possible s, rfl, rfl, rfl, fun ha => ?_, fun ha => ?_, ?_⟩
  · simp [ha]
  · simp [ha]
  · exact keepsAllBut_of_waitAck s _ _ _ _ _ _ _ _

/-- With the first `n` answers of the budget of 5 high and the next low, the Wait-Ack is acknowledged at sample `n + 1`. -/
theorem ackResult_ackAt {s : State} {n : Nat} {rest : List Bit} (hb : s.params.ackPollBudget = 5) (hn : n < 5)
    (henv : s.env = List.replicate n true ++ false :: rest) : ackResult s = .ackAt (n + 1) := by
  have h := pollResult_ackAt n (4 - n) rest (pollStart s) henv
  rwa [show n + 1 + (4 - n) = s.params.ackPollBudget by omega] at h

/-- With all answers of the budget high, the Wait-Ack times out. -/
theorem ackResult_timeout {s : State} {rest : List Bit}
    (henv : s.env = List.replicate s.params.ackPollBudget true ++ rest) : ackResult s = .timeout :=
  pollResult_timeout _ rest (pollStart s) henv

/-! ### Event counts (R96) -/

/-- The counts of two runs, one after the other, add up. -/
theorem hasCounts_append {es fs : List PinEvent} {n dr cf sm wa n' dr' cf' sm' wa' : Nat} (h : HasCounts es n dr cf sm wa)
    (h' : HasCounts fs n' dr' cf' sm' wa') : HasCounts (es ++ fs) (n + n') (dr + dr') (cf + cf') (sm + sm') (wa + wa') := by
  obtain ⟨rfl, rfl, rfl, rfl, rfl⟩ := h
  obtain ⟨rfl, rfl, rfl, rfl, rfl⟩ := h'
  simp only [HasCounts, List.length_append, List.countP_append, samplesOf_append, and_self]

/-- High samples, each with its delay. -/
theorem hasCounts_highSamples (d n : Nat) : HasCounts (highSamples d n) (2 * n) 0 0 n n := by
  induction n with
  | zero => exact ⟨rfl, rfl, rfl, rfl, rfl⟩
  | succ n ih =>
    have hone : HasCounts [.smp true, .wait d] 2 0 0 1 1 := ⟨rfl, rfl, rfl, rfl, rfl⟩
    simpa only [highSamples, List.replicate_succ, List.flatten_cons, Nat.mul_succ, Nat.add_comm] using hasCounts_append hone ih

/-- A Wait-Ack acknowledged at sample `n + 1`. -/
theorem hasCounts_ackAt (d budget n : Nat) :
    HasCounts (waitAckEvents d budget (.ackAt (n + 1))) (2 * (n + 1) + 7) 2 2 (n + 1) (n + 1 + 3) := by
  have hhead : HasCounts [.cfg .sda .ipu, .wait d, .drv .scl true, .wait d] 4 1 1 0 2 := ⟨rfl, rfl, rfl, rfl, rfl⟩
  have htail : HasCounts [.smp false, .cfg .sda .od, .wait d, .drv .scl false, .wait d] 5 1 1 1 2 :=
    ⟨rfl, rfl, rfl, rfl, rfl⟩
  obtain ⟨hlen, hdrv, hcfg, hsmp, hwaits⟩ :=
    hasCounts_append (hasCounts_append hhead (hasCounts_highSamples d n)) htail
  exact ⟨hlen.trans (by omega), hdrv, hcfg, hsmp.trans (by omega), hwaits.trans (by omega)⟩

/-- A Wait-Ack that times out after five samples. -/
theorem hasCounts_timeout (d : Nat) : HasCounts (waitAckEvents d 5 .timeout) 24 5 2 5 12 := ⟨rfl, rfl, rfl, rfl, rfl⟩

/-- Settles O35: the counts of the law's events. -/
theorem primitiveEventCounts : Obligations.PrimitiveEventCounts := by
  intro s hs hb
  refine ⟨⟨_, _, exec_start s hs, rfl, rfl, rfl, rfl, rfl, rfl⟩, ⟨_, _, exec_stop s hs, rfl, rfl, rfl, rfl, rfl, rfl⟩,
    fun v => ⟨_, _, exec_sendByte s hs v, rfl, rfl, rfl, rfl, rfl, rfl⟩,
    ⟨_, _, exec_recvByte s hs, rfl, rfl, rfl, rfl, rfl, rfl⟩, ⟨_, _, exec_waitAck s hs, rfl, ?_⟩,
    ⟨_, _, exec_sendAck s hs, rfl, rfl, rfl, rfl, rfl, rfl⟩, ⟨_, _, exec_sendNack s hs, rfl, rfl, rfl, rfl, rfl, rfl⟩⟩
  have hpos := ackResult_possible s
  rw [hb] at hpos ⊢
  cases ha : ackResult s with
  | ackAt j =>
    rw [ha] at hpos
    obtain ⟨n, rfl⟩ := Nat.exists_eq_add_one.2 hpos.1
    exact ⟨fun _ => ⟨n + 1, hpos.1, hpos.2, hasCounts_ackAt _ 5 n⟩, nofun⟩
  | timeout => exact ⟨nofun, fun _ => hasCounts_timeout _⟩

/-- Settles O31: the answers fix the result, and the result the events, their counts and the state. -/
theorem waitAckOutcomeBySamples : Obligations.WaitAckOutcomeBySamples := by
  refine fun s hs hb => ⟨fun j rest hj hj' henv => ?_, fun rest henv => ?_⟩
  · obtain ⟨n, rfl⟩ := Nat.exists_eq_add_one.2 hj
    have ha : ackResult s = .ackAt (n + 1) := ackResult_ackAt hb hj' henv
    obtain ⟨hlen, -, -, -, hwaits⟩ := hasCounts_ackAt s.params.tD 5 n
    refine ⟨_, _, exec_waitAck s hs, rfl, ?_⟩
    simp only [ha, hb]
    refine ⟨hlen, hwaits, rfl, rfl, rfl, ?_⟩
    simp [henv, samplesTaken, List.drop_append]
  · have ha : ackResult s = .timeout := ackResult_timeout (by rw [hb, henv])
    refine ⟨_, _, exec_waitAck s hs, rfl, ?_⟩
    simp only [ha, hb, henv]
    exact ⟨rfl, rfl, rfl, rfl, rfl, rfl⟩

/-- Settles O32: the switch back to output mode finds the clock high and the latch at 0, and so does the last drive of the Stop. -/
theorem timeoutRestoreIsAStartEdge : Obligations.TimeoutRestoreIsAStartEdge := by
  intro s rest hs hb hsda henv
  have ha : ackResult s = .timeout := ackResult_timeout (by rw [hb, henv])
  refine ⟨_, _, exec_waitAck s hs, rfl, ?_⟩
  simp only [ha, hb]
  exact ⟨PinView.edgesAlong_of_latches rfl rfl rfl hsda rfl, PinView.edgesAlong_of_latches rfl rfl rfl rfl rfl⟩

/-! ### SEND_ACK and SEND_NACK (R94, R95) -/

/-- Settles O33: the first drive is a start edge on the latches the command finds high. -/
theorem sendAckEffect : Obligations.SendAckEffect := by
  refine ⟨spelledOnlyBy_encode (i := .sendAck) rfl, refusedBeforeInit rfl nofun, fun s hs => ?_⟩
  exact ⟨_, exec_sendAck s hs, rfl, rfl, rfl, rfl, rfl, keepsAllBut_of_drives s _ _ _ _ _,
    fun hd hscl hsda => PinView.edgesAlong_of_latches rfl hd hscl hsda rfl⟩

/-- Settles O34: the first drive is a stop edge on a high clock and a low data latch. -/
theorem sendNackEffect : Obligations.SendNackEffect := by
  refine ⟨spelledOnlyBy_encode (i := .sendNack) rfl, refusedBeforeInit rfl nofun, fun s hs => ?_⟩
  exact ⟨_, exec_sendNack s hs, rfl, rfl, rfl, rfl, rfl, keepsAllBut_of_drives s _ _ _ _ _,
    fun hd hscl hsda => PinView.edgesAlong_of_latches rfl hd hscl hsda rfl⟩

/-! ### A delay after every edge (R82) -/

/-- A sample may stand before any run whose delays are placed. -/
theorem delaysPlaced_smp {d : Nat} {es : List PinEvent} (b : Bit) (h : delaysPlaced d es = true) :
    delaysPlaced d (.smp b :: es) = true := by
  rcases es with _ | ⟨_ | _ | _ | _, es⟩
  case cons.wait => cases h
  all_goals cases b <;> exact h

/-- One run after another has its delays placed where each has. -/
theorem delaysPlaced_append {d : Nat} {es fs : List PinEvent} (h : delaysPlaced d es = true) (h' : delaysPlaced d fs = true) :
    delaysPlaced d (es ++ fs) = true := by
  fun_induction delaysPlaced d es with
  | case1 => exact h'
  | case2 _ _ _ es ih | case3 _ _ _ es ih | case4 _ es ih =>
    obtain ⟨hd, h⟩ := Bool.and_eq_true_iff.1 h
    exact Bool.and_eq_true_iff.2 ⟨hd, ih h⟩
  | case5 b es _ ih => exact delaysPlaced_smp b (ih h)
  | case6 => cases h

/-- Any number of runs, one after the other. -/
theorem delaysPlaced_flatMap {α : Type} {d : Nat} {f : α → List PinEvent} (h : ∀ x, delaysPlaced d (f x) = true)
    (xs : List α) : delaysPlaced d (xs.flatMap f) = true := by
  induction xs with
  | nil => rfl
  | cons x xs ih => exact delaysPlaced_append (h x) ih

theorem delaysPlaced_startEvents (d : Nat) : delaysPlaced d (startEvents d) = true := by
  simp [startEvents, delaysPlaced]

theorem delaysPlaced_stopEvents (d : Nat) : delaysPlaced d (stopEvents d) = true := by
  simp [stopEvents, delaysPlaced]

theorem delaysPlaced_sendAckEvents (d : Nat) : delaysPlaced d (sendAckEvents d) = true := by
  simp [sendAckEvents, delaysPlaced]

theorem delaysPlaced_sendNackEvents (d : Nat) : delaysPlaced d (sendNackEvents d) = true := by
  simp [sendNackEvents, delaysPlaced]

/-- SEND_BYTE: each of its bits, and the last drive. -/
theorem delaysPlaced_sendByteEvents (d : Nat) (v : Byte) : delaysPlaced d (sendByteEvents d v) = true := by
  refine delaysPlaced_append (delaysPlaced_flatMap (fun b => ?_) _) ?_
  · simp [bitOutEvents, delaysPlaced]
  · simp [delaysPlaced]

/-- RECV_BYTE: the switch to input, each of its samples, and the way back. -/
theorem delaysPlaced_recvByteEvents (d : Nat) (v : Byte) : delaysPlaced d (recvByteEvents d v) = true := by
  refine delaysPlaced_append (delaysPlaced_append ?_ (delaysPlaced_flatMap (fun b => ?_) _)) ?_
  · simp [delaysPlaced]
  · simp [bitInEvents, delaysPlaced]
  · simp [delaysPlaced]

/-- High samples: each has the delay that it may have. -/
theorem delaysPlaced_highSamples (d n : Nat) : delaysPlaced d (highSamples d n) = true := by
  induction n with
  | zero => rfl
  | succ n ih =>
    rw [highSamples, List.replicate_succ, List.flatten_cons]
    exact delaysPlaced_append (by simp [delaysPlaced]) ih

/-- A Wait-Ack, however it ends. -/
theorem delaysPlaced_waitAckEvents (d budget : Nat) (a : AckResult) : delaysPlaced d (waitAckEvents d budget a) = true := by
  have hhead : delaysPlaced d [.cfg .sda .ipu, .wait d, .drv .scl true, .wait d] = true := by simp [delaysPlaced]
  cases a with
  | ackAt j =>
    refine delaysPlaced_append (delaysPlaced_append hhead (delaysPlaced_highSamples d _)) ?_
    simp [delaysPlaced]
  | timeout =>
    refine delaysPlaced_append (delaysPlaced_append (delaysPlaced_append hhead (delaysPlaced_highSamples d _)) ?_)
      (delaysPlaced_stopEvents d)
    simp [delaysPlaced]

/-- A byte sent and its Wait-Ack. -/
theorem delaysPlaced_sentEvents (d budget : Nat) (v : Byte) (a : AckResult) :
    delaysPlaced d (sentEvents d budget v a) = true :=
  delaysPlaced_append (delaysPlaced_sendByteEvents d v) (delaysPlaced_waitAckEvents d budget a)

/-- An aborted transaction, with a Stop of its own or without. -/
theorem delaysPlaced_abortedEvents (p : Params) (dev : DevAddr) : delaysPlaced p.tD (abortedEvents p dev) = true := by
  refine delaysPlaced_append (delaysPlaced_append (delaysPlaced_startEvents _) (delaysPlaced_sentEvents _ _ _ _)) ?_
  cases p.abortStop2
  · rfl
  · exact delaysPlaced_stopEvents p.tD

/-- From `s` to `t` events are recorded whose delays are placed as R82 asks. -/
def Paced (s t : State) : Prop :=
  t.params = s.params ∧ ∃ es, t.trace = s.trace ++ es ∧ delaysPlaced s.params.tD es = true

/-- With no event there is no delay to place. -/
theorem Paced.silent {s t : State} (hp : t.params = s.params) (ht : t.trace = s.trace) : Paced s t :=
  ⟨hp, [], by rw [ht, List.append_nil], rfl⟩

/-- One run after another. -/
theorem Paced.trans {s t u : State} (h : Paced s t) (h' : Paced t u) : Paced s u := by
  obtain ⟨hp, es, ht, hes⟩ := h
  obtain ⟨hp', fs, ht', hfs⟩ := h'
  rw [hp] at hfs
  exact ⟨hp'.trans hp, es ++ fs, by rw [ht', ht, List.append_assoc], delaysPlaced_append hes hfs⟩

theorem paced_callStart (s : State) : Paced s (callStart s) := by
  rw [callStart_eq]
  exact ⟨rfl, _, rfl, delaysPlaced_startEvents _⟩

theorem paced_callStop (s : State) : Paced s (callStop s) := by
  rw [callStop_eq]
  exact ⟨rfl, _, rfl, delaysPlaced_stopEvents _⟩

theorem paced_callSendByte (v : Byte) (s : State) : Paced s (callSendByte v s) := by
  rw [callSendByte_eq]
  exact ⟨rfl, _, rfl, delaysPlaced_sendByteEvents _ v⟩

theorem paced_callRecvByte (s : State) : Paced s (callRecvByte s).2 := by
  rw [callRecvByte_eq]
  exact ⟨rfl, _, rfl, delaysPlaced_recvByteEvents _ _⟩

theorem paced_waitAck (s : State) : Paced s (waitAck s).2 := by
  rw [waitAck_eq]
  exact ⟨rfl, _, rfl, delaysPlaced_waitAckEvents _ _ _⟩

theorem paced_callSendAck (s : State) : Paced s (callSendAck s) := by
  rw [callSendAck_eq]
  exact ⟨rfl, _, rfl, delaysPlaced_sendAckEvents _⟩

theorem paced_callSendNack (s : State) : Paced s (callSendNack s) := by
  rw [callSendNack_eq]
  exact ⟨rfl, _, rfl, delaysPlaced_sendNackEvents _⟩

theorem paced_sendIgnored (v : Byte) (s : State) : Paced s (sendIgnored v s) := by
  rw [sendIgnored_eq]
  exact ⟨rfl, _, rfl, delaysPlaced_sentEvents _ _ v _⟩

/-- The end of a transaction: its Stop, and RESULT. -/
theorem paced_closeTransaction (s : State) : Paced s (closeTransaction s) :=
  (paced_callStop s).trans (.silent rfl rfl)

/-- A transaction with a checked address phase: aborted, or acknowledged and then the rest of it. -/
theorem paced_checkedAddress (dev : DevAddr) {rest : State → State} (h : ∀ u, Paced u (rest u)) (s : State) :
    Paced s (checkedAddress dev rest s) := by
  rw [checkedAddress_eq]
  split
  · exact ⟨rfl, _, rfl, delaysPlaced_abortedEvents _ dev⟩
  · have hack : Paced s (acknowledged dev s) := ⟨rfl, _, List.append_assoc _ _ _,
      delaysPlaced_append (delaysPlaced_startEvents _) (delaysPlaced_sentEvents _ _ _ _)⟩
    exact hack.trans (h _)

/-- The data loop of WRITE_MULTI. -/
theorem paced_sendBuf (n : Nat) (idx : Byte) (s : State) : Paced s (sendBuf n idx s) := by
  induction n generalizing idx s with
  | zero => exact .silent rfl rfl
  | succ n ih =>
    have hread : Paced s (s.memRead idx).2 := .silent (s.memRead_params idx) (s.memRead_trace idx)
    exact (hread.trans (paced_sendIgnored _ _)).trans (ih _ _)

/-- The data loop of READ_MULTI. -/
theorem paced_recvBuf (n : Nat) (idx : Byte) (s : State) : Paced s (recvBuf n idx s) := by
  induction n generalizing idx s with
  | zero => exact .silent rfl rfl
  | succ n ih =>
    have hbyte : Paced s ((callRecvByte s).2.memWrite idx (callRecvByte s).1) :=
      (paced_callRecvByte s).trans (.silent rfl rfl)
    rw [recvBuf]
    refine (hbyte.trans ?_).trans (ih _ _)
    cases n with
    | zero => exact paced_callSendNack _
    | succ n => exact paced_callSendAck _

/-- Every primitive and every transaction (R82). -/
theorem paced_expansion {i : Instr} (h : isPinLevel i = false) (s : State) : Paced s (expansion i s) := by
  cases i with
  | init | setDir | wrScl | wrSda | rdSda => cases h
  | start => exact (paced_callStart s).trans (.silent rfl rfl)
  | stop => exact (paced_callStop s).trans (.silent rfl rfl)
  | sendByte v => exact (paced_callSendByte v s).trans (.silent rfl rfl)
  | recvByte => exact (paced_callRecvByte s).trans (.silent rfl rfl)
  | waitAck => exact (paced_waitAck s).trans (.silent rfl rfl)
  | sendAck => exact (paced_callSendAck s).trans (.silent rfl rfl)
  | sendNack => exact (paced_callSendNack s).trans (.silent rfl rfl)
  | writeOne dev reg val =>
    exact paced_checkedAddress dev (fun u =>
      (paced_sendIgnored reg u).trans (paced_sendIgnored val _) |>.trans (paced_closeTransaction _)) s
  | writeMulti dev reg n =>
    exact paced_checkedAddress dev (fun u =>
      (paced_sendIgnored reg u).trans (paced_sendBuf n.toNat 0 _) |>.trans (paced_closeTransaction _)) s
  | readOne dev reg =>
    have hopen : Paced s (callStart (s.setIgnNack false)) := Paced.trans (.silent rfl rfl) (paced_callStart _)
    exact hopen.trans (paced_sendIgnored _ _) |>.trans (paced_sendIgnored reg _) |>.trans (paced_callStart _)
      |>.trans (paced_sendIgnored _ _) |>.trans (paced_callRecvByte _) |>.trans (paced_callSendNack _)
      |>.trans (paced_closeTransaction _)
  | readMulti dev reg n =>
    exact paced_checkedAddress dev (fun u =>
      (paced_sendIgnored reg u).trans (paced_callStart _) |>.trans (paced_sendIgnored _ _)
        |>.trans (paced_recvBuf n.toNat 0 _) |>.trans (paced_closeTransaction _)) s

/-- INIT and the pin-level commands record drives, direction changes and samples only (R73, R79). -/
theorem expansion_records_no_wait {i : Instr} (h : isPinLevel i = true) (s : State) :
    ∃ es, (expansion i s).trace = s.trace ++ es ∧ ∀ e ∈ es, isWait e = false := by
  cases i with
  | init => exact ⟨_, List.append_assoc _ _ _, by simp [isWait]⟩
  | setDir out => cases out <;> exact ⟨_, rfl, by simp [isWait]⟩
  | wrScl | wrSda | rdSda => exact ⟨_, rfl, by simp [isWait]⟩
  | start | stop | sendByte | recvByte | waitAck | sendAck | sendNack | writeOne | writeMulti | readOne | readMulti => cases h

/-- Settles O45: a refused command records nothing, a primitive or transaction what its calls record, one after the other. -/
theorem delaysStandAfterEveryEdge : Obligations.DelaysStandAfterEveryEdge := by
  intro i s t h
  rcases exec_cases i s t h with ⟨f, -, rfl⟩ | ⟨-, -, -, rfl⟩
  · exact ⟨[], by simp, fun _ => rfl, fun _ => nofun⟩
  · cases hi : isPinLevel i with
    | false =>
      obtain ⟨-, es, htrace, hes⟩ := paced_expansion hi s
      exact ⟨es, htrace, fun _ => hes, nofun⟩
    | true =>
      obtain ⟨es, htrace, hes⟩ := expansion_records_no_wait hi s
      exact ⟨es, htrace, nofun, fun _ => hes⟩

/-! ### How many samples an expansion may take (R91, R96) -/

/-- The most samples a micro-operation and what it puts in its place can take. -/
def Micro.samples : Micro → Nat
  | .sampleLine => 1
  | .sampleBit bitcnt _ _ => bitcnt + 1
  | .samplePoll left _ => left + 1
  | .before _ | .after _ | .cfgScl | .cfgSda _ | .drvScl _ | .drvSda _ | .wait | .sendFrom _ => 0

/-- The most samples a list of micro-operations can take. -/
def samplesIn (q : List Micro) : Nat := (q.map Micro.samples).sum

@[simp] theorem samplesIn_nil : samplesIn [] = 0 := rfl

@[simp] theorem samplesIn_cons (m : Micro) (q : List Micro) : samplesIn (m :: q) = m.samples + samplesIn q := rfl

@[simp] theorem samplesIn_append (p q : List Micro) : samplesIn (p ++ q) = samplesIn p + samplesIn q := by
  simp [samplesIn]

/-- START and STOP take none. -/
@[simp] theorem samplesIn_startOps : samplesIn startOps = 0 := rfl

@[simp] theorem samplesIn_stopOps : samplesIn stopOps = 0 := rfl

/-- The bit loop of SEND_BYTE takes none. -/
@[simp] theorem samplesIn_shiftOutOps (n : Nat) (shift : Byte) : samplesIn (shiftOutOps n shift) = 0 := by
  induction n generalizing shift with
  | zero => rfl
  | succ n ih => simp [shiftOutOps, sclOps, sdaOps, Micro.samples, ih]

/-- The events of SEND_BYTE after the first take none. -/
@[simp] theorem samplesIn_byteOutOps_tail (v : Byte) : samplesIn (byteOutOps v).tail = 0 := by
  show samplesIn (.wait :: (sdaOps _ ++ sclOps true ++ shiftOutOps 7 _ ++ sclOps false)) = 0
  simp [sclOps, sdaOps, Micro.samples]

/-- SEND_BYTE takes none. -/
@[simp] theorem samplesIn_sendByteOps (v : Byte) : samplesIn (sendByteOps v) = 0 := by
  simp [sendByteOps, byteOutOps, sclOps, Micro.samples]

/-- RECV_BYTE with `n` bits to come takes one for each. -/
@[simp] theorem samplesIn_bitInOps (n : Nat) (rcv : Byte) (dest : Option Byte) : samplesIn (bitInOps n rcv dest) = n := by
  cases n with
  | zero => cases dest <;> rfl
  | succ n => simp [bitInOps, sclOps, Micro.samples]

/-- RECV_BYTE takes eight. -/
@[simp] theorem samplesIn_recvByteOps (dest : Option Byte) : samplesIn (recvByteOps dest) = 8 := by
  simp [recvByteOps, directionOps, Micro.samples]

/-- The acknowledge exit takes none of its own. -/
theorem samplesIn_ackOps (use : AckUse) (rest : List Micro) : samplesIn (ackOps use rest) = samplesIn rest := by
  cases use <;> simp [ackOps, directionOps, sclOps, Micro.samples]

/-- The poll loop takes at most one for each turn left. -/
theorem samplesIn_pollOps (p : Params) (use : AckUse) (rest : List Micro) (n : Nat) :
    samplesIn (pollOps p use rest n) ≤ n + samplesIn rest := by
  cases n with
  | zero =>
    cases use with
    | checked => cases h : p.abortStop2 <;> simp [pollOps, timeoutOps, directionOps, Micro.samples, h]
    | command | ignored => simp [pollOps, timeoutOps, directionOps, Micro.samples]
  | succ n => simp [pollOps, Micro.samples]

/-- A Wait-Ack takes at most its budget. -/
theorem samplesIn_waitAckOps (p : Params) (use : AckUse) {rest : List Micro} {k : Nat} (h : samplesIn rest ≤ k) :
    samplesIn (waitAckOps p use rest) ≤ p.ackPollBudget + k := by
  refine le_trans ?_ (Nat.add_le_add_left h _)
  simpa [waitAckOps, directionOps, sclOps, Micro.samples] using samplesIn_pollOps p use rest p.ackPollBudget

/-- A byte and its ignored Wait-Ack. -/
theorem samplesIn_sendIgnoredOps (p : Params) (v : Byte) {rest : List Micro} {k : Nat} (h : samplesIn rest ≤ k) :
    samplesIn (sendIgnoredOps p v rest) ≤ p.ackPollBudget + k := by
  simpa [sendIgnoredOps] using samplesIn_waitAckOps p .ignored h

/-- The opening of a transaction with a checked address phase. -/
theorem samplesIn_checkedAddressOps (p : Params) (dev : DevAddr) {rest : List Micro} {k : Nat} (h : samplesIn rest ≤ k) :
    samplesIn (checkedAddressOps p dev rest) ≤ p.ackPollBudget + k := by
  simpa [checkedAddressOps, Micro.samples] using samplesIn_waitAckOps p .checked h

/-- A (repeated) START takes none before what follows it. -/
theorem samplesIn_restart {rest : List Micro} {k : Nat} (h : samplesIn rest ≤ k) : samplesIn (startOps ++ rest) ≤ k := by
  rwa [samplesIn_append, samplesIn_startOps, Nat.zero_add]

/-- The data loop of WRITE_MULTI. -/
theorem samplesIn_sendBufOps (p : Params) {rest : List Micro} {k : Nat} (h : samplesIn rest ≤ k) (n : Nat) (idx : Byte) :
    samplesIn (sendBufOps p rest n idx) ≤ n * p.ackPollBudget + k := by
  induction n generalizing idx with
  | zero => simpa [sendBufOps] using h
  | succ n ih =>
    refine (Nat.zero_add _).le.trans ((samplesIn_waitAckOps p .ignored (ih (idx + 1))).trans ?_)
    rw [Nat.succ_mul]
    omega

/-- The data loop of READ_MULTI. -/
theorem samplesIn_recvBufOps (rest : List Micro) (n : Nat) (idx : Byte) :
    samplesIn (recvBufOps rest n idx) = 8 * n + samplesIn rest := by
  induction n generalizing idx with
  | zero => simp [recvBufOps]
  | succ n ih =>
    have hend : samplesIn (if n = 0 then sendNackOps else sendAckOps) = 0 := by split <;> rfl
    rw [recvBufOps, samplesIn_append, samplesIn_append, samplesIn_recvByteOps, hend, ih]
    omega

/-- At the budget of 5 no command takes more samples than the longest READ_MULTI: three Wait-Acks and 255 bytes. -/
theorem samplesIn_microOps {p : Params} (hb : p.ackPollBudget = 5) (i : Instr) : samplesIn (microOps p i) ≤ 2055 := by
  have hclose : samplesIn closeOps ≤ 0 := le_rfl
  cases i with
  | init | setDir | wrScl | wrSda | start | stop | sendAck | sendNack => exact Nat.zero_le _
  | rdSda => exact (show 1 ≤ 2055 by decide)
  | sendByte v => simp [microOps, Micro.samples]
  | recvByte => simp [microOps, Micro.samples]
  | waitAck => exact (samplesIn_waitAckOps p .command (k := 0) le_rfl).trans (by omega)
  | writeOne dev reg val =>
    refine (samplesIn_checkedAddressOps p dev <| samplesIn_sendIgnoredOps p reg <|
      samplesIn_sendIgnoredOps p val hclose).trans ?_
    omega
  | writeMulti dev reg n =>
    refine (samplesIn_checkedAddressOps p dev <| samplesIn_sendIgnoredOps p reg <|
      samplesIn_sendBufOps p hclose n.toNat 0).trans ?_
    have := n.isLt
    rw [hb]
    omega
  | readOne dev reg =>
    have hdata : samplesIn (recvByteOps none ++ sendNackOps ++ closeOps) ≤ 8 := le_rfl
    have haddr := samplesIn_restart (samplesIn_sendIgnoredOps p (addrByte dev true) hdata)
    have h := samplesIn_restart (samplesIn_sendIgnoredOps p (addrByte dev false) <| samplesIn_sendIgnoredOps p reg haddr)
    refine (Nat.zero_add _).le.trans (h.trans ?_)
    omega
  | readMulti dev reg n =>
    have hdata : samplesIn (recvBufOps closeOps n.toNat 0) ≤ 8 * n.toNat := (samplesIn_recvBufOps _ _ _).le
    have haddr := samplesIn_restart (samplesIn_sendIgnoredOps p (addrByte dev true) hdata)
    refine (samplesIn_checkedAddressOps p dev <| samplesIn_sendIgnoredOps p reg haddr).trans ?_
    have := n.isLt
    omega

/-- After a micro-operation there are answers left for the samples left, where there were before it. -/
theorem Micro.run_samplesIn (m : Micro) (q : List Micro) (s : State) (h : samplesIn (m :: q) ≤ s.env.length) :
    samplesIn (m.run q s).1 ≤ (m.run q s).2.env.length := by
  rw [samplesIn_cons] at h
  rw [(m.run_emits q s).2.2, List.length_drop]
  cases m with
  | sampleLine | sampleBit =>
    simp only [Micro.run, Micro.emits, Micro.samples, samplesOf, List.length_singleton, samplesIn_append,
      samplesIn_bitInOps] at h ⊢
    omega
  | samplePoll left use =>
    have hpoll := samplesIn_pollOps s.params use q left
    simp only [Micro.run, Micro.emits, samplesOf, List.length_singleton, Micro.samples] at h ⊢
    split
    · simp only [samplesIn_cons, Micro.samples]
      omega
    · rw [samplesIn_ackOps]
      omega
  | _ => simpa [Micro.run, Micro.emits, Micro.samples, samplesOf] using h

/-! ### What a command does apart from the length of its delays (R136) -/

/-- The state `s'` is `s` with the delay `d`, and the length of each `Wait` recorded may be another. -/
def SameButDelay (d : Nat) (s s' : State) : Prop :=
  ∃ es, s' = { s with params := { s.params with tD := d }, trace := es } ∧ es.map forgetDelay = s.trace.map forgetDelay

/-- An answer the state holds does not depend on the delay. -/
theorem SameButDelay.envAnswer {d : Nat} {s s' : State} (h : SameButDelay d s s') (henv : 0 < s.env.length) :
    s'.envAnswer = s.envAnswer := by
  obtain ⟨es, rfl, -⟩ := h
  obtain ⟨b, rest, hb⟩ := List.exists_cons_of_length_pos henv
  rw [s.envAnswer_cons b rest hb]
  exact State.envAnswer_cons _ b rest hb

/-- Traces that are the same apart from the delays stay so as one more event is recorded in both. -/
theorem map_forgetDelay_snoc {es es' : List PinEvent} {e e' : PinEvent} (h : es'.map forgetDelay = es.map forgetDelay)
    (he : forgetDelay e' = forgetDelay e) : (es' ++ [e']).map forgetDelay = (es ++ [e]).map forgetDelay := by
  simp [h, he]

/-- No expansion of the poll loop depends on the delay. -/
theorem pollOps_tD (p : Params) (d : Nat) (use : AckUse) (rest : List Micro) (n : Nat) :
    pollOps { p with tD := d } use rest n = pollOps p use rest n := by
  cases n <;> rfl

/-- Nor does the data loop of WRITE_MULTI. -/
theorem sendBufOps_tD (p : Params) (d : Nat) (rest : List Micro) (n : Nat) (idx : Byte) :
    sendBufOps { p with tD := d } rest n idx = sendBufOps p rest n idx := by
  induction n generalizing idx with
  | zero => rfl
  | succ n ih => simp only [sendBufOps, waitAckOps, pollOps_tD, ih]

/-- Nor does the expansion of any command. -/
theorem microOps_tD (p : Params) (d : Nat) (i : Instr) : microOps { p with tD := d } i = microOps p i := by
  cases i <;> simp only [microOps, checkedAddressOps, sendIgnoredOps, waitAckOps, pollOps_tD, sendBufOps_tD]

/-- With the answer to its sample held, a micro-operation leaves the same to run and does the same apart from the delay. -/
theorem Micro.run_sameButDelay {d : Nat} {s s' : State} (m : Micro) (h : SameButDelay d s s') (q : List Micro)
    (henv : m.samples ≤ s.env.length) :
    (m.run q s').1 = (m.run q s).1 ∧ SameButDelay d (m.run q s).2 (m.run q s').2 := by
  have hanswer (hm : 0 < m.samples) : s'.envAnswer = s.envAnswer := h.envAnswer (hm.trans_le henv)
  obtain ⟨es, rfl, hes⟩ := h
  cases m with
  | before w | after w => cases w <;> exact ⟨rfl, _, rfl, hes⟩
  | cfgSda out => cases out <;> exact ⟨rfl, _, rfl, map_forgetDelay_snoc hes rfl⟩
  | sampleLine =>
    have ha := hanswer Nat.one_pos
    simp only [Micro.run, ha]
    exact ⟨trivial, _, rfl, map_forgetDelay_snoc hes (by rw [ha])⟩
  | sampleBit n rcv dest =>
    have ha := hanswer n.succ_pos
    simp only [Micro.run, ha]
    exact ⟨trivial, _, rfl, map_forgetDelay_snoc hes (by rw [ha])⟩
  | samplePoll left use =>
    have ha := hanswer left.succ_pos
    simp only [Micro.run, ha, pollOps_tD]
    exact ⟨trivial, _, rfl, map_forgetDelay_snoc hes (by rw [ha])⟩
  | sendFrom idx =>
    simp only [Micro.run, State.memRead]
    cases bufGet s.buf idx.toNat <;> exact ⟨rfl, _, rfl, map_forgetDelay_snoc hes rfl⟩
  | _ => exact ⟨rfl, _, rfl, map_forgetDelay_snoc hes rfl⟩

/-- One expansion, run to its end with either delay and with the answers to all its samples held, does the same apart from it. -/
theorem Leads.sameButDelay {d : Nat} {q q' : List Micro} {s t : State} (h : Leads q s q' t) (hq : q' = [])
    (henv : samplesIn q ≤ s.env.length) {s' t' : State} (hs : SameButDelay d s s') (h' : Leads q s' [] t') :
    SameButDelay d t t' := by
  induction h generalizing s' with
  | refl q s =>
    subst hq
    cases h'
    exact hs
  | step m q q' s t _ ih =>
    obtain ⟨hleft, hsame⟩ := m.run_sameButDelay hs q ((Nat.le_add_right _ _).trans henv)
    cases h' with
    | step _ _ _ _ _ h' => exact ih hq (m.run_samplesIn q s henv) hsame (hleft ▸ h')

/-- A refusal sets its fault bit with either delay. -/
theorem raiseFault_sameButDelay {d : Nat} {s s' : State} (h : SameButDelay d s s') (f : FaultCode) :
    SameButDelay d (s.raiseFault f) (s'.raiseFault f) := by
  obtain ⟨es, rfl, hes⟩ := h
  cases f <;> exact ⟨es, rfl, hes⟩

/-- A command does the same with either delay: its checks read none, and its expansion is one list of micro-operations. -/
theorem exec_sameButDelay (i : Instr) (s : State) (d : Nat) (hb : s.params.ackPollBudget = 5) (henv : 2055 ≤ s.env.length) :
    ∃ t t', exec i s = .next t ∧ exec i { s with params := { s.params with tD := d } } = .next t' ∧ SameButDelay d t t' := by
  have hs : SameButDelay d s { s with params := { s.params with tD := d } } := ⟨s.trace, rfl, rfl⟩
  have hacc : acceptance i { s with params := { s.params with tD := d } } = acceptance i s := rfl
  simp only [exec_eq, execute, hacc]
  cases acceptance i s with
  | some f => exact ⟨_, _, rfl, rfl, raiseFault_sameButDelay hs f⟩
  | none =>
    have hrun := leads_microOps i { s with params := { s.params with tD := d } }
    rw [microOps_tD] at hrun
    exact ⟨_, _, rfl, rfl, (leads_microOps i s).sameButDelay rfl ((samplesIn_microOps hb i).trans henv) hs hrun⟩

/-- Settles O51: the two runs end alike apart from the delay, and each has added its events to the one trace. -/
theorem delayChangesOnlyTheWaits : Obligations.DelayChangesOnlyTheWaits := by
  intro i s d hb henv
  obtain ⟨t, t', ht, ht', es', rfl, hes⟩ := exec_sameButDelay i s d hb henv
  obtain ⟨fs, hfs⟩ := exec_answered i s t ht
  obtain ⟨fs', hfs'⟩ := exec_answered i _ _ ht'
  refine ⟨_, _, fs, fs', ht, ht', hfs.trace, hfs'.trace, ?_, rfl⟩
  have htrace : es' = s.trace ++ fs' := hfs'.trace
  rw [htrace, hfs.trace, List.map_append, List.map_append] at hes
  exact List.append_cancel_left hes

end Sys2Proof.Machine

/-! PROOFS. The statements of 42_transactions.md: each transaction by the results of its Wait-Acks (R97 to R106), the bus it
leaves (R107), a write read back, and how many events a command may take (R96). -/

namespace Sys2Proof.Machine

open Sys2Proof.Safety

/-! ### The parts of a transaction -/

/-- The state after the byte `v` and an ignored Wait-Ack that ends in `a` (R98). -/
def afterSent (v : Byte) (a : AckResult) (s : State) : State :=
  { s with protoViol := s.protoViol || s.busState == .idle || s.sdaDir == .input, sdaDir := .output,
           sclOut := .val a.timedOut, sdaOut := if a.timedOut then .val true else .val (v.getLsbD 0),
           busState := if a.timedOut then .idle else s.busState, ignNack := s.ignNack || a.timedOut,
           env := s.env.drop (samplesTaken s.params.ackPollBudget a),
           trace := s.trace ++ sentEvents s.params.tD s.params.ackPollBudget v a }

/-- A byte and its ignored Wait-Ack end in one of the results the budget allows (R98). -/
theorem sendIgnored_cases (v : Byte) (s : State) :
    ∃ a, AckResult.Possible s.params.ackPollBudget a ∧ sendIgnored v s = afterSent v a s :=
  ⟨sentResult v s, sentResult_possible v s, sendIgnored_eq v s⟩

/-- IGN_NACK cleared, and START (R97). -/
theorem opened_eq (s : State) : opened s =
    { s with protoViol := s.protoViol || s.sdaDir == .input, ignNack := false, sdaOut := .val false, sclOut := .val false,
             busState := .started, trace := s.trace ++ startEvents s.params.tD } := by
  rw [opened, callStart_eq]
  rfl

/-- After a Wait-Ack that found the bus started, BUS_STATE is IDLE where it timed out. -/
@[simp] theorem idleIf_beq_idle (b : Bit) : ((if b then BusState.idle else .started) == .idle) = b := by
  cases b <;> rfl

/-- The fields a transaction that receives nothing may change. -/
def transactionFields : List FieldName :=
  [.trace, .result, .ignNack, .protoViol, .busState, .sclOut, .sdaOut, .sdaDir, .env]

/-- A transaction that receives nothing changes those and leaves the rest. -/
theorem keepsAllBut_of_transaction (s : State) (r : Result) (ign v : Bit) (b : BusState) (scl sda : Held Bit) (dir : SdaDir)
    (env : List Bit) (es : List PinEvent) :
    KeepsAllBut transactionFields s
      { s with result := r, ignNack := ign, protoViol := v, busState := b, sclOut := scl, sdaOut := sda, sdaDir := dir,
               env := env, trace := es } := by
  intro f hf
  cases f <;> simp [FieldName.same, transactionFields] at hf ⊢

/-- READ_ONE sets RXDATA too. -/
theorem keepsAllBut_of_reading (s : State) (v : Byte) (r : Result) (ign viol : Bit) (b : BusState) (scl sda : Held Bit)
    (dir : SdaDir) (env : List Bit) (es : List PinEvent) :
    KeepsAllBut (transactionFields ++ [.rxData]) s
      { s with rxData := .val v, result := r, ignNack := ign, protoViol := viol, busState := b, sclOut := scl, sdaOut := sda,
               sdaDir := dir, env := env, trace := es } :=
  (keepsAllBut_of_transaction s r ign viol b scl sda dir env es).trans (Write.apply_keepsAllBut (.rxData v) _)

/-- The end of a transaction leaves the bus idle, where SDA is in output mode (R107). -/
theorem closeTransaction_busIdle {s : State} (h : s.sdaDir = .output) : BusIdle (closeTransaction s) := by
  rw [closeTransaction_eq s h]
  exact ⟨rfl, rfl, rfl, h⟩

/-- So does the abort. -/
theorem aborted_busIdle (dev : DevAddr) (s : State) : BusIdle (aborted dev s) := ⟨rfl, rfl, rfl, rfl⟩

/-- And it is what R97 says. -/
theorem aborted_abortsFrom (dev : DevAddr) (s : State) : AbortsFrom dev s (aborted dev s) :=
  ⟨rfl, rfl, rfl, rfl, keepsAllBut_of_transaction s _ _ _ _ _ _ _ _ _⟩

/-- A transaction with a checked address phase (R97): refused before INIT, and after it aborted, or, where the address was
acknowledged, run to its Stop. -/
theorem checkedTransaction_effect {i : Instr} {dev : DevAddr} {body : State → State} {Done : State → State → Prop}
    (hw : i.WellFormed) (hi : i ≠ .init) (hr : i ≠ .rdSda)
    (hexp : expansion i = checkedAddress dev fun u => closeTransaction (body u))
    (hdone : ∀ s, (addressResult dev s).timedOut = false →
      (body (acknowledged dev s)).sdaDir = .output ∧ Done s (closeTransaction (body (acknowledged dev s)))) :
    RefusedBeforeInit i ∧
      ∀ s, s.initDone = true → ∃ t, exec i s = .next t ∧ BusIdle t ∧ (AbortsFrom dev s t ∨ Done s t) := by
  refine ⟨refusedBeforeInit hw hi, fun s hs => ⟨_, exec_run i s hw hi hr hs, ?_⟩⟩
  rw [hexp, checkedAddress_eq]
  cases ha : (addressResult dev s).timedOut with
  | true => exact ⟨aborted_busIdle dev s, .inl (aborted_abortsFrom dev s)⟩
  | false =>
    obtain ⟨hdir, hend⟩ := hdone s ha
    exact ⟨closeTransaction_busIdle hdir, .inr hend⟩

/-! ### WRITE_ONE (R99, R100) -/

/-- Settles O36: the law of each byte in turn, by the result of its Wait-Ack. -/
theorem writeOneEffect : Obligations.WriteOneEffect := by
  intro dev reg val
  refine checkedTransaction_effect rfl nofun nofun rfl fun s ha => ?_
  obtain ⟨a₂, h₂, hreg⟩ := sendIgnored_cases reg (acknowledged dev s)
  obtain ⟨a₃, h₃, hval⟩ := sendIgnored_cases val (afterSent reg a₂ (acknowledged dev s))
  rw [hreg, hval, closeTransaction_eq _ rfl]
  refine ⟨rfl, addressResult dev s, a₂, a₃, ha, ?_, rfl, rfl, rfl, ?_, keepsAllBut_of_transaction s _ _ _ _ _ _ _ _ _⟩
  · simpa using ⟨addressResult_possible dev s, h₂, h₃⟩
  · simp [afterSent, acknowledged]

/-! ### WRITE_MULTI (R101, R102) -/

/-- One more byte below the index is one more unwritten byte, or none. -/
theorem unwrittenBelow_succ (m : List Host.Cell) (i : Nat) :
    unwrittenBelow m (i + 1) = unwrittenBelow m i + if bufGet m i = .unspec then 1 else 0 := by
  by_cases h : bufGet m i = .unspec <;> simp [unwrittenBelow, List.range_succ, List.filter_append, h]

/-- In `u`, reached from `s`, the bytes of BUF below the index have been read, each one never written by a draw of its own. -/
structure ReadUpTo (s u : State) (i : Nat) : Prop where
  params : u.params = s.params
  buf : u.buf = s.buf
  draws : u.draws = s.draws + unwrittenBelow s.buf i

/-- The byte WRITE_MULTI sends for the index: what BUF holds, or the draw that is that byte's own (20_memory.md R42). -/
def SentAt (s : State) (i : Nat) (v : Byte) : Prop :=
  (∀ u, bufGet s.buf i = .val u → v = u)
    ∧ (bufGet s.buf i = .unspec → v = s.byteDraw (s.draws + unwrittenBelow s.buf i))

/-- The next byte read is the one at its index. -/
theorem ReadUpTo.memRead {s u : State} {idx : Byte} (h : ReadUpTo s u idx.toNat) :
    SentAt s idx.toNat (u.memRead idx).1 ∧ ReadUpTo s (u.memRead idx).2 (idx.toNat + 1) := by
  obtain ⟨hparams, hbuf, hdraws⟩ := h
  cases hget : bufGet s.buf idx.toNat with
  | val v =>
    rw [show u.memRead idx = (v, u) by simp [State.memRead, hbuf, hget, State.readByte]]
    exact ⟨by simp [SentAt, hget], hparams, hbuf, by simp [unwrittenBelow_succ, hget, hdraws]⟩
  | unspec =>
    rw [show u.memRead idx = (s.byteDraw u.draws, { u with draws := u.draws + 1 }) by
      simp [State.memRead, hbuf, hget, State.readByte, State.byteDraw, hparams]]
    exact ⟨by simp [SentAt, hget, hdraws], hparams, hbuf, by simp [unwrittenBelow_succ, hget, hdraws, Nat.add_assoc]⟩

/-- Sending a byte reads none. -/
theorem ReadUpTo.sendIgnored {s u : State} {i : Nat} (h : ReadUpTo s u i) (v : Byte) :
    ReadUpTo s (sendIgnored v u) i := by
  rw [sendIgnored_eq]
  exact ⟨h.params, h.buf, h.draws⟩

/-- The data loop of WRITE_MULTI sends BUF's bytes in index order and draws for those never written (R101). -/
theorem ReadUpTo.sendBuf {s u : State} {idx : Byte} (h : ReadUpTo s u idx.toNat) (n : Nat) (hn : idx.toNat + n < 256) :
    ReadUpTo s (sendBuf n idx u) (idx.toNat + n) ∧ ∀ j x, (sentOf n idx u)[j]? = some x → SentAt s (idx.toNat + j) x.1 := by
  induction n generalizing idx u with
  | zero => exact ⟨h, by simp [sentOf]⟩
  | succ n ih =>
    have hidx : (idx + 1).toNat = idx.toNat + 1 := by
      rw [BitVec.toNat_add]
      exact Nat.mod_eq_of_lt (show idx.toNat + 1 < 256 by omega)
    obtain ⟨hbyte, hread⟩ := h.memRead
    obtain ⟨hend, hsent⟩ := ih (hidx ▸ hread.sendIgnored _) (by omega)
    rw [hidx, Nat.add_assoc, Nat.add_comm 1 n] at hend
    refine ⟨hend, fun j x hx => ?_⟩
    cases j with
    | zero =>
      obtain rfl := Option.some.inj hx
      exact hbyte
    | succ j =>
      have := hsent j x hx
      rwa [hidx, Nat.add_assoc, Nat.add_comm 1 j] at this

/-- Settles O37: the data loop's law, its bytes and its draws, after the register byte's. -/
theorem writeMultiEffect : Obligations.WriteMultiEffect := by
  intro dev reg n
  refine checkedTransaction_effect rfl nofun nofun rfl fun s ha => ?_
  obtain ⟨a₂, h₂, hreg⟩ := sendIgnored_cases reg (acknowledged dev s)
  rw [hreg]
  have hread : ReadUpTo s (afterSent reg a₂ (acknowledged dev s)) (0 : Byte).toNat := ⟨rfl, rfl, rfl⟩
  obtain ⟨⟨hparams, -, hdraws⟩, hbytes⟩ := hread.sendBuf n.toNat (by simpa using n.isLt)
  obtain ⟨hdir, htrace, hign, hviol, hkeeps⟩ := sendBuf_spec n.toNat 0 (afterSent reg a₂ (acknowledged dev s)) rfl
  have hpossible := sentOf_possible n.toNat 0 (afterSent reg a₂ (acknowledged dev s))
  have hlen := sentOf_length n.toNat 0 (afterSent reg a₂ (acknowledged dev s))
  generalize sentOf n.toNat 0 (afterSent reg a₂ (acknowledged dev s)) = sent at *
  generalize sendBuf n.toNat 0 (afterSent reg a₂ (acknowledged dev s)) = u at *
  rw [closeTransaction_eq u hdir]
  refine ⟨hdir, addressResult dev s, a₂, sent, ha, hlen, addressResult_possible dev s, h₂, hpossible, fun i v a hi => ?_, ?_, ?_,
    rfl, ?_, ?_, ?_⟩
  · simpa [SentAt] using hbytes i (v, a) hi
  · simpa using hdraws
  · rw [htrace, hparams]
    rfl
  · rw [hign]
    rfl
  · rw [hviol]
    cases sent with
    | nil => simp [← hlen, afterSent, acknowledged]
    | cons x sent => simp [← hlen, afterSent, acknowledged, Bool.or_assoc]
  · exact ((keepsAllBut_of_transaction s _ _ _ _ _ _ _ _ _).trans hkeeps).trans (keepsAllBut_of_transaction u _ _ _ _ _ _ _ _ _)
      |>.mono (by decide)

/-! ### READ_ONE (R103, R104) -/

/-- Where READ_ONE has sent its three bytes: the state, by the results of their Wait-Acks (R103). -/
theorem readOne_addressed (dev : DevAddr) (reg : Byte) (s : State) : ∃ a₁ a₂ a₃,
    (∀ a ∈ [a₁, a₂, a₃], AckResult.Possible s.params.ackPollBudget a)
    ∧ sendIgnored (addrByte dev true) (callStart (sendIgnored reg (sendIgnored (addrByte dev false) (opened s)))) =
      afterSent (addrByte dev true) a₃ (callStart (afterSent reg a₂ (afterSent (addrByte dev false) a₁ (opened s)))) := by
  obtain ⟨a₁, h₁, haddr⟩ := sendIgnored_cases (addrByte dev false) (opened s)
  obtain ⟨a₂, h₂, hreg⟩ := sendIgnored_cases reg (sendIgnored (addrByte dev false) (opened s))
  obtain ⟨a₃, h₃, hread⟩ := sendIgnored_cases (addrByte dev true)
    (callStart (sendIgnored reg (sendIgnored (addrByte dev false) (opened s))))
  refine ⟨a₁, a₂, a₃, ?_, by rw [hread, hreg, haddr]⟩
  simp only [callStart_params, sendIgnored_params] at h₂ h₃
  simpa using ⟨h₁, h₂, h₃⟩

/-- READ_ONE after its address and register bytes (R103). -/
theorem expansion_readOne (dev : DevAddr) (reg : Byte) (s : State) : expansion (.readOne dev reg) s =
    closeTransaction (callSendNack (callRecvByte (sendIgnored (addrByte dev true) (callStart (sendIgnored reg
      (sendIgnored (addrByte dev false) (opened s)))))).2) := rfl

/-- Settles O38: the law of each call in turn; none of them branches, and the last Wait-Ack's timeout leaves the bus idle before
the byte is received. -/
theorem readOneEffect : Obligations.ReadOneEffect := by
  intro dev reg
  refine ⟨refusedBeforeInit rfl nofun, fun s hs => ⟨_, exec_run (.readOne dev reg) s rfl nofun nofun hs, ?_⟩⟩
  obtain ⟨a₁, a₂, a₃, hpossible, haddressed⟩ := readOne_addressed dev reg s
  rw [expansion_readOne, haddressed, opened_eq, callStart_eq, callRecvByte_eq]
  dsimp only
  generalize receivedByte _ = v
  rw [callSendNack_eq, closeTransaction_eq _ rfl]
  refine ⟨⟨rfl, rfl, rfl, rfl⟩, a₁, a₂, a₃, v, hpossible, rfl, rfl, rfl, rfl, ?_, ?_⟩
  · cases a₁ <;> cases a₃ <;> simp [afterSent, AckResult.timedOut]
  · exact (keepsAllBut_of_reading s _ _ _ _ _ _ _ _ _ _).mono (by decide)

/-! ### READ_MULTI (R105, R106) -/

/-- Where READ_MULTI turns to its data: the state, by the results of the Wait-Acks since the acknowledged address (R105). -/
theorem readMulti_addressed (dev : DevAddr) (reg : Byte) (s : State) : ∃ a₂ a₃,
    AckResult.Possible s.params.ackPollBudget a₂ ∧ AckResult.Possible s.params.ackPollBudget a₃
    ∧ sendIgnored (addrByte dev true) (callStart (sendIgnored reg (acknowledged dev s))) =
      { s with protoViol := s.protoViol || s.sdaDir == .input, ignNack := a₂.timedOut || a₃.timedOut,
               busState := if a₃.timedOut then .idle else .started, sdaDir := .output, sclOut := .val a₃.timedOut,
               sdaOut := .val true,
               env := ((acknowledged dev s).env.drop (samplesTaken s.params.ackPollBudget a₂)).drop
                 (samplesTaken s.params.ackPollBudget a₃),
               trace := (acknowledged dev s).trace ++ sentEvents s.params.tD s.params.ackPollBudget reg a₂
                 ++ startEvents s.params.tD ++ sentEvents s.params.tD s.params.ackPollBudget (addrByte dev true) a₃ } := by
  obtain ⟨a₂, h₂, hreg⟩ := sendIgnored_cases reg (acknowledged dev s)
  obtain ⟨a₃, h₃, hread⟩ := sendIgnored_cases (addrByte dev true) (callStart (afterSent reg a₂ (acknowledged dev s)))
  rw [callStart_params] at h₃
  refine ⟨a₂, a₃, h₂, h₃, ?_⟩
  rw [hreg, hread, callStart_eq, afterSent]
  simp only [addrByte_bit0]
  simp [afterSent, acknowledged]

/-- Settles O39: the data loop's law after the three address and register bytes. -/
theorem readMultiEffect : Obligations.ReadMultiEffect := by
  intro dev reg n hn
  refine checkedTransaction_effect (bne_iff_ne.2 hn) nofun nofun rfl fun s ha => ?_
  obtain ⟨a₂, a₃, h₂, h₃, hdata⟩ := readMulti_addressed dev reg s
  obtain ⟨hdir, htrace, hviol, hbelow, habove, hlast, -, hkeeps⟩ := recvBuf_spec n.toNat 0
    (sendIgnored (addrByte dev true) (callStart (sendIgnored reg (acknowledged dev s)))) (by rw [sendIgnored_eq])
    (by simpa using n.isLt.le)
  have hlen := receivedOf_length n.toNat 0 (sendIgnored (addrByte dev true) (callStart (sendIgnored reg (acknowledged dev s))))
  rw [hdata] at *
  generalize receivedOf n.toNat 0 _ = received at *
  generalize recvBuf n.toNat 0 _ = u at *
  have hparams : u.params = s.params := hkeeps .params (by decide)
  have hign := hkeeps .ignNack (by decide)
  rw [closeTransaction_eq u hdir]
  refine ⟨hdir, addressResult dev s, a₂, a₃, received, ha, ?_, hlen, ?_, ?_, ?_, hlast, rfl, hign, ?_, ?_⟩
  · simpa using ⟨addressResult_possible dev s, h₂, h₃⟩
  · rw [htrace, hparams]
    rfl
  · simpa using hbelow
  · simpa using habove
  · have hcount : (n.toNat != 0) = true := bne_iff_ne.2 fun h => hn (BitVec.eq_of_toNat_eq h)
    simpa [hcount] using hviol
  · exact ((keepsAllBut_of_transaction s _ _ _ _ _ _ _ _ _).trans hkeeps).trans (keepsAllBut_of_transaction u _ _ _ _ _ _ _ _ _)
      |>.mono (by decide)

/-! ### The bus a transaction leaves (R107) -/

/-- The command ends with a Stop and leaves the bus idle (R107). -/
def LeavesBusIdle (i : Instr) (s : State) : Prop :=
  ∃ t es, exec i s = .next t ∧ BusIdle t ∧ t.trace = s.trace ++ es ++ stopEvents s.params.tD

/-- It does where its Stop comes after events that come after the trace so far. -/
theorem leavesBusIdle_of_trace {i : Instr} {s t : State} {es : List PinEvent} (ht : exec i s = .next t) (hidle : BusIdle t)
    (htrace : t.trace = es ++ stopEvents s.params.tD) (hes : s.trace <+: es) : LeavesBusIdle i s := by
  obtain ⟨fs, rfl⟩ := hes
  exact ⟨t, fs, ht, hidle, htrace⟩

/-- An aborted transaction ends in a Stop: its own, or the one inside its Wait-Ack (R97). -/
theorem abortedEvents_endsWithStop (p : Params) (dev : DevAddr) : ∃ es, abortedEvents p dev = es ++ stopEvents p.tD := by
  cases h : p.abortStop2 with
  | true => exact ⟨_, by rw [abortedEvents, if_pos h]⟩
  | false =>
    rw [abortedEvents, if_neg (by simp [h]), List.append_nil, sentEvents, waitAckEvents, ← List.append_assoc, ← List.append_assoc]
    exact ⟨_, rfl⟩

/-- So an aborted command does too. -/
theorem leavesBusIdle_of_abortsFrom {i : Instr} {dev : DevAddr} {s t : State} (ht : exec i s = .next t) (hidle : BusIdle t)
    (h : AbortsFrom dev s t) : LeavesBusIdle i s := by
  obtain ⟨es, hes⟩ := abortedEvents_endsWithStop s.params dev
  obtain ⟨htrace, -⟩ := h
  rw [hes, ← List.append_assoc] at htrace
  exact leavesBusIdle_of_trace ht hidle htrace ⟨_, rfl⟩

/-- Settles O41: each transaction's events end in a Stop, aborted or not. -/
theorem transactionsLeaveTheBusIdle : Obligations.TransactionsLeaveTheBusIdle := by
  intro i s hi hw hs
  cases i with
  | writeOne dev reg val =>
    obtain ⟨t, ht, hidle, habort | ⟨a₁, a₂, a₃, -, -, htrace, -⟩⟩ := (writeOneEffect dev reg val).2 s hs
    · exact leavesBusIdle_of_abortsFrom ht hidle habort
    · exact leavesBusIdle_of_trace ht hidle htrace (by simp)
  | writeMulti dev reg n =>
    obtain ⟨t, ht, hidle, habort | ⟨a₁, a₂, sent, -, -, -, -, -, -, -, htrace, -⟩⟩ := (writeMultiEffect dev reg n).2 s hs
    · exact leavesBusIdle_of_abortsFrom ht hidle habort
    · exact leavesBusIdle_of_trace ht hidle htrace (by simp)
  | readOne dev reg =>
    obtain ⟨t, ht, hidle, a₁, a₂, a₃, v, -, htrace, -⟩ := (readOneEffect dev reg).2 s hs
    exact leavesBusIdle_of_trace ht hidle htrace (by simp)
  | readMulti dev reg n =>
    obtain ⟨t, ht, hidle, habort | ⟨a₁, a₂, a₃, received, -, -, -, htrace, -⟩⟩ :=
      (readMultiEffect dev reg n (bne_iff_ne.1 hw)).2 s hs
    · exact leavesBusIdle_of_abortsFrom ht hidle habort
    · exact leavesBusIdle_of_trace ht hidle htrace (by simp)
  | init | setDir | wrScl | wrSda | rdSda | start | stop | sendByte | recvByte | waitAck | sendAck | sendNack => cases hi

/-! ### A write read back (95_test_vectors.md E2, E7) -/

/-- The next `n` answers held are low, `rest` after them, and a Wait-Ack takes at least one sample. -/
structure LowNext (n : Nat) (rest : List Bit) (s : State) : Prop where
  budget : 1 ≤ s.params.ackPollBudget
  env : s.env = List.replicate n false ++ rest

section
variable {n : Nat} {rest : List Bit} {s : State}

/-- A byte is acknowledged at the first sample. -/
theorem LowNext.sentResult (h : LowNext (n + 1) rest s) (v : Byte) : sentResult v s = .ackAt 1 := by
  have henv : (pollStart (callSendByte v s)).env = List.replicate 0 true ++ false :: (List.replicate n false ++ rest) := by
    rw [callSendByte_eq]
    exact h.env
  obtain ⟨k, hk⟩ := Nat.exists_eq_add_of_le h.budget
  have hpoll := pollResult_ackAt 0 k _ _ henv
  rwa [Nat.zero_add, ← hk, ← callSendByte_params v s] at hpoll

/-- It takes the one answer. -/
theorem LowNext.sendIgnored (h : LowNext (n + 1) rest s) (v : Byte) :
    sendIgnored v s = afterSent v (.ackAt 1) s ∧ LowNext n rest (afterSent v (.ackAt 1) s) := by
  refine ⟨?_, h.budget, ?_⟩
  · rw [sendIgnored_eq, h.sentResult v, afterSent]
  · rw [afterSent, h.env]
    rfl

/-- START takes none. -/
theorem LowNext.callStart (h : LowNext n rest s) : LowNext n rest (callStart s) := by
  rw [callStart_eq]
  exact ⟨h.budget, h.env⟩

/-- The address phase is acknowledged and takes one. -/
theorem LowNext.acknowledged (h : LowNext (n + 1) rest s) (dev : DevAddr) :
    addressResult dev s = .ackAt 1 ∧ LowNext n rest (acknowledged dev s) := by
  have hopened : LowNext (n + 1) rest (opened s) := LowNext.callStart ⟨h.budget, h.env⟩
  have ha : addressResult dev s = .ackAt 1 := hopened.sentResult (addrByte dev false)
  refine ⟨ha, h.budget, ?_⟩
  rw [Machine.acknowledged, ha, h.env]
  rfl

end

/-- With the bits of `v` held next, RECV_BYTE receives `v` and takes them (R89). -/
theorem LowNext.receivedByte {s : State} {v : Byte} {rest : List Bit} (h : LowNext 0 (msbFirst v ++ rest) s) :
    receivedByte s = v ∧ s.env.drop 8 = rest := by
  have henv : s.env = msbFirst v ++ rest := h.env
  have hbits : answersIn 8 (s.checkProto .recvByte).sdaToInput = msbFirst v := answersIn_env (msbFirst v) rest _ henv
  exact ⟨by rw [Machine.receivedByte, hbits, shiftInBits_msbFirst], by rw [henv]; rfl⟩

/-- WRITE_ONE succeeds and takes three. -/
theorem LowNext.writeOne {n : Nat} {s : State} {rest : List Bit} (h : LowNext (n + 3) rest s) (hs : s.initDone = true)
    (dev : DevAddr) (reg val : Byte) :
    ∃ t, exec (.writeOne dev reg val) s = .next t ∧ LowNext n rest t ∧ t.initDone = true ∧ t.result = .ok := by
  obtain ⟨ha, hack⟩ := h.acknowledged dev
  obtain ⟨hreg, hack⟩ := hack.sendIgnored reg
  obtain ⟨hval, hack⟩ := hack.sendIgnored val
  refine ⟨_, exec_run (.writeOne dev reg val) s rfl nofun nofun hs, ?_⟩
  rw [expansion, checkedAddress_eq, ha, if_neg nofun, hreg, hval, closeTransaction_eq _ rfl]
  exact ⟨⟨hack.budget, hack.env⟩, hs, rfl⟩

/-- READ_ONE with three low answers held next, and then the bits of `v`, receives `v`. -/
theorem LowNext.readOne {s : State} {v : Byte} {rest : List Bit} (h : LowNext 3 (msbFirst v ++ rest) s) (hs : s.initDone = true)
    (dev : DevAddr) (reg : Byte) :
    ∃ t, exec (.readOne dev reg) s = .next t ∧ t.rxData = .val v ∧ t.result = .ok ∧ t.ignNack = false ∧ t.env = rest := by
  have hopened : LowNext 3 (msbFirst v ++ rest) (opened s) := LowNext.callStart ⟨h.budget, h.env⟩
  obtain ⟨haddr, hack⟩ := hopened.sendIgnored (addrByte dev false)
  obtain ⟨hreg, hack⟩ := hack.sendIgnored reg
  obtain ⟨hread, hack⟩ := hack.callStart.sendIgnored (addrByte dev true)
  obtain ⟨hbyte, hdrop⟩ := hack.receivedByte
  refine ⟨_, exec_run (.readOne dev reg) s rfl nofun nofun hs, ?_⟩
  rw [expansion_readOne, haddr, hreg, hread, callRecvByte_eq, hbyte, hdrop, callSendNack_eq, closeTransaction_eq _ rfl]
  exact ⟨rfl, rfl, by simp [afterSent, callStart_eq, opened_eq, AckResult.timedOut], rfl⟩

/-- Settles O42: each of the six bytes takes one low answer, and the byte received the rest. -/
theorem writeThenReadOnEchoingDevice : Obligations.WriteThenReadOnEchoingDevice := by
  intro dev reg v s rest hs hb henv
  have h : LowNext (3 + 3) (msbFirst v ++ rest) s := ⟨hb, by rw [henv, List.append_assoc]⟩
  obtain ⟨t, ht, hlow, hinit, hresult⟩ := h.writeOne hs dev reg v
  obtain ⟨u, hu, hread⟩ := hlow.readOne hinit dev reg
  exact ⟨t, u, ht, hresult, hu, hread⟩

/-! ### How many events a command takes (R96, R107) -/

/-- A Wait-Ack takes at most 24 events with the budget of 5, and at most 17 where it is acknowledged. -/
theorem length_waitAckEvents_le (d : Nat) {a : AckResult} (h : a.Possible 5) :
    (waitAckEvents d 5 a).length ≤ if a.timedOut then 24 else 17 := by
  cases a with
  | ackAt j =>
    obtain ⟨hj, hj'⟩ := h
    obtain ⟨n, rfl⟩ := Nat.exists_eq_add_one.2 hj
    obtain ⟨hlen, -⟩ := hasCounts_ackAt d 5 n
    rw [hlen, AckResult.timedOut, if_neg nofun]
    omega
  | timeout => exact (hasCounts_timeout d).1.le

/-- A byte and its Wait-Ack. -/
theorem length_sentEvents_le (d : Nat) (v : Byte) {a : AckResult} (h : a.Possible 5) :
    (sentEvents d 5 v a).length ≤ if a.timedOut then 74 else 67 := by
  have hack := length_waitAckEvents_le d h
  calc (sentEvents d 5 v a).length = 50 + (waitAckEvents d 5 a).length := List.length_append
    _ ≤ 50 + if a.timedOut then 24 else 17 := Nat.add_le_add_left hack 50
    _ = if a.timedOut then 74 else 67 := by split <;> rfl

/-- At most 74, however the Wait-Ack ends. -/
theorem length_sentEvents_le_max (d : Nat) (v : Byte) {a : AckResult} (h : a.Possible 5) : (sentEvents d 5 v a).length ≤ 74 :=
  (length_sentEvents_le d v h).trans (by split <;> decide)

/-- The data phase of WRITE_MULTI. -/
theorem length_writeDataEvents_le (d : Nat) {sent : List (Byte × AckResult)} (h : ∀ x ∈ sent, AckResult.Possible 5 x.2) :
    (writeDataEvents d 5 sent).length ≤ 74 * sent.length := by
  induction sent with
  | nil => exact Nat.zero_le _
  | cons x sent ih =>
    obtain ⟨hx, hsent⟩ := List.forall_mem_cons.1 h
    have hhead := length_sentEvents_le_max d x.1 hx
    have htail := ih hsent
    simp only [writeDataEvents, List.flatMap_cons, List.length_append, List.length_cons] at htail ⊢
    omega

/-- The data phase of READ_MULTI. -/
theorem length_readDataEvents (d : Nat) (vs : List Byte) : (readDataEvents d vs).length = 52 * vs.length := by
  fun_induction readDataEvents d vs with
  | case1 => rfl
  | case2 v => rfl
  | case3 v w vs ih =>
    have hbyte : (recvByteEvents d v ++ sendAckEvents d).length = 52 := rfl
    rw [List.length_append, hbyte, ih, List.length_cons (a := v), Nat.mul_succ, Nat.add_comm]

/-- An aborted transaction. -/
theorem length_abortedEvents_le {p : Params} (hb : p.ackPollBudget = 5) (dev : DevAddr) : (abortedEvents p dev).length ≤ 90 := by
  rw [abortedEvents, hb]
  cases p.abortStop2
  · exact (show 82 ≤ 90 by decide)
  · exact Nat.le_refl 90

/-- Events recorded after the trace so far lengthen it by their number. -/
theorem length_le_of_trace {s t : State} {es : List PinEvent} {n : Nat} (ht : t.trace = s.trace ++ es) (hes : es.length ≤ n) :
    t.trace.length ≤ s.trace.length + n := by
  rw [ht, List.length_append]
  exact Nat.add_le_add_left hes _

/-- An aborted transaction is well within the longest one. -/
theorem length_le_of_abortsFrom {dev : DevAddr} {s t : State} (hb : s.params.ackPollBudget = 5) (h : AbortsFrom dev s t) :
    t.trace.length ≤ s.trace.length + 19027 := by
  obtain ⟨htrace, -⟩ := h
  exact length_le_of_trace htrace ((length_abortedEvents_le hb dev).trans (by decide))

@[simp] theorem length_startEvents (d : Nat) : (startEvents d).length = 8 := rfl

@[simp] theorem length_stopEvents (d : Nat) : (stopEvents d).length = 8 := rfl

@[simp] theorem length_sendNackEvents (d : Nat) : (sendNackEvents d).length = 6 := rfl

@[simp] theorem length_recvByteEvents (d : Nat) (v : Byte) : (recvByteEvents d v).length = 46 := rfl

/-- Three Wait-Acks' results, each one the budget of 5 allows. -/
theorem possible_three {s : State} {a₁ a₂ a₃ : AckResult} (hb : s.params.ackPollBudget = 5)
    (h : ∀ a ∈ [a₁, a₂, a₃], a.Possible s.params.ackPollBudget) : a₁.Possible 5 ∧ a₂.Possible 5 ∧ a₃.Possible 5 := by
  simpa [hb] using h

/-- A transaction takes at most 19027 events: WRITE_MULTI of 255 bytes, none of them acknowledged (R107). -/
theorem exec_transaction_length_le {i : Instr} {s : State} (hi : isTransaction i = true) (hw : i.WellFormed)
    (hs : s.initDone = true) (hb : s.params.ackPollBudget = 5) :
    ∃ t, exec i s = .next t ∧ t.trace.length ≤ s.trace.length + 19027 := by
  cases i with
  | writeOne dev reg val =>
    obtain ⟨t, ht, -, habort | ⟨a₁, a₂, a₃, -, hpossible, htrace, -⟩⟩ := (writeOneEffect dev reg val).2 s hs
    · exact ⟨t, ht, length_le_of_abortsFrom hb habort⟩
    · obtain ⟨h₁, h₂, h₃⟩ := possible_three hb hpossible
      have hlen₁ := length_sentEvents_le_max s.params.tD (addrByte dev false) h₁
      have hlen₂ := length_sentEvents_le_max s.params.tD reg h₂
      have hlen₃ := length_sentEvents_le_max s.params.tD val h₃
      refine ⟨t, ht, ?_⟩
      simp only [htrace, hb, List.length_append, length_startEvents, length_stopEvents]
      omega
  | writeMulti dev reg n =>
    obtain ⟨t, ht, -, habort | ⟨a₁, a₂, sent, ha, hcount, h₁, h₂, hsent, -, -, htrace, -⟩⟩ := (writeMultiEffect dev reg n).2 s hs
    · exact ⟨t, ht, length_le_of_abortsFrom hb habort⟩
    · rw [hb] at h₁ h₂ hsent htrace
      have hlen₁ := length_sentEvents_le s.params.tD (addrByte dev false) h₁
      have hlen₂ := length_sentEvents_le_max s.params.tD reg h₂
      have hdata := length_writeDataEvents_le s.params.tD hsent
      have hn := n.isLt
      rw [ha, if_neg nofun] at hlen₁
      refine ⟨t, ht, ?_⟩
      simp only [htrace, List.length_append, length_startEvents, length_stopEvents]
      omega
  | readOne dev reg =>
    obtain ⟨t, ht, -, a₁, a₂, a₃, v, hpossible, htrace, -⟩ := (readOneEffect dev reg).2 s hs
    obtain ⟨h₁, h₂, h₃⟩ := possible_three hb hpossible
    have hlen₁ := length_sentEvents_le_max s.params.tD (addrByte dev false) h₁
    have hlen₂ := length_sentEvents_le_max s.params.tD reg h₂
    have hlen₃ := length_sentEvents_le_max s.params.tD (addrByte dev true) h₃
    refine ⟨t, ht, ?_⟩
    simp only [htrace, hb, List.length_append, length_startEvents, length_stopEvents, length_recvByteEvents,
      length_sendNackEvents]
    omega
  | readMulti dev reg n =>
    obtain ⟨t, ht, -, habort | ⟨a₁, a₂, a₃, received, -, hpossible, hcount, htrace, -⟩⟩ :=
      (readMultiEffect dev reg n (bne_iff_ne.1 hw)).2 s hs
    · exact ⟨t, ht, length_le_of_abortsFrom hb habort⟩
    · obtain ⟨h₁, h₂, h₃⟩ := possible_three hb hpossible
      have hlen₁ := length_sentEvents_le_max s.params.tD (addrByte dev false) h₁
      have hlen₂ := length_sentEvents_le_max s.params.tD reg h₂
      have hlen₃ := length_sentEvents_le_max s.params.tD (addrByte dev true) h₃
      have hn := n.isLt
      refine ⟨t, ht, ?_⟩
      simp only [htrace, hb, List.length_append, length_startEvents, length_stopEvents, length_readDataEvents]
      omega
  | init | setDir | wrScl | wrSda | rdSda | start | stop | sendByte | recvByte | waitAck | sendAck | sendNack => cases hi

/-- Any other command takes at most 50 events, as SEND_BYTE does (R96). -/
theorem expansion_length_le {i : Instr} {s : State} (hi : isTransaction i = false) (hb : s.params.ackPollBudget = 5) :
    (expansion i s).trace.length ≤ s.trace.length + 50 := by
  cases i with
  | init => exact length_le_of_trace (es := [.cfg .scl _, .cfg .sda .od]) (List.append_assoc _ _ _) (by simp)
  | setDir out => cases out <;> exact length_le_of_trace rfl (by simp)
  | wrScl l | wrSda l | rdSda => exact length_le_of_trace rfl (by simp)
  | start =>
    rw [expansion, callStart_eq]
    exact length_le_of_trace rfl (by simp)
  | stop =>
    rw [expansion, callStop_eq]
    exact length_le_of_trace rfl (by simp)
  | sendByte v =>
    rw [expansion, callSendByte_eq]
    exact length_le_of_trace rfl (Nat.le_refl 50)
  | recvByte =>
    rw [expansion, callRecvByte_eq]
    exact length_le_of_trace rfl (by simp)
  | waitAck =>
    have hpossible := ackResult_possible s
    rw [hb] at hpossible
    rw [expansion, waitAck_eq, hb]
    exact length_le_of_trace rfl ((length_waitAckEvents_le _ hpossible).trans (by split <;> decide))
  | sendAck =>
    rw [expansion, callSendAck_eq]
    exact length_le_of_trace rfl (show 6 ≤ 50 by decide)
  | sendNack =>
    rw [expansion, callSendNack_eq]
    exact length_le_of_trace rfl (by simp)
  | writeOne | writeMulti | readOne | readMulti => cases hi

/-- Settles O43: a refused command records nothing, and one that runs what its effect says. -/
theorem everyCommandEnds : Obligations.EveryCommandEnds := by
  intro i s hb
  obtain ⟨t, ht⟩ := exec_next i s
  refine ⟨t, ht, ?_⟩
  rcases exec_cases i s t ht with ⟨f, -, rfl⟩ | ⟨hw, hinit, -, rfl⟩
  · rw [State.raiseFault_trace]
    exact Nat.le_add_right _ _
  · cases hi : isTransaction i with
    | false => exact expansion_length_le hi hb
    | true =>
      have hs : s.initDone = true := by
        by_contra h
        rw [hinit.2 (Bool.eq_false_iff.2 h)] at hi
        cases hi
      obtain ⟨u, hu, hlen⟩ := exec_transaction_length_le hi hw hs hb
      rw [ht] at hu
      cases hu
      exact hlen

end Sys2Proof.Machine

/-! PROOFS. The statements of 60_exceptions.md: the acceptance checks in their order (R109, R112), the sticky bits (R113), and
instances that interleave freely (R122). -/

namespace Sys2Proof.Machine

open Sys2Proof.Safety

/-! ### A command that passes the checks (R109): what it may change, and that it issues an event -/

/-- Every field some command changes: all but the parameters, the fault bits and what the host port holds. -/
def commandFields : List FieldName :=
  [.initDone, .sclCfg, .sdaDir, .sclOut, .sdaOut, .busState, .result, .ignNack, .protoViol, .sample, .rxData, .buf, .trace, .env,
    .draws]

theorem Write.field_mem_commandFields (w : Write) : w.field ∈ commandFields := by
  cases w <;> simp [Write.field, commandFields]

theorem Micro.fields_subset_commandFields (m : Micro) : m.fields ⊆ commandFields := by
  cases m with
  | before w | after w => exact List.cons_subset.2 ⟨w.field_mem_commandFields, List.nil_subset _⟩
  | _ => simp [Micro.fields, commandFields]

/-- An expansion changes what its micro-operations change. -/
theorem expansion_keepsAllBut (i : Instr) (s : State) : KeepsAllBut commandFields s (expansion i s) := by
  refine Leads.relates (R := KeepsAllBut commandFields) (fun s f _ => ?_) (fun s t u h h' => ?_) (fun m q s => ?_)
    (leads_microOps i s)
  · cases f <;> simp [FieldName.same]
  · exact (h.trans h').mono (by simp)
  · exact (m.run_keepsAllBut q s).mono m.fields_subset_commandFields

/-- A run of micro-operations only appends to the trace. -/
theorem Leads.trace_grows {q q' : List Micro} {s t : State} (h : Leads q s q' t) : s.trace <+: t.trace :=
  h.relates (R := fun s t => s.trace <+: t.trace) (fun s => ⟨[], List.append_nil s.trace⟩) (fun _ _ _ => List.IsPrefix.trans)
    (fun m q s => ⟨m.emits s, (m.run_emits q s).1.symm⟩)

/-- What starts with an event, run to its end, has recorded that event. -/
theorem Leads.trace_of_startsWithEvent {q q' : List Micro} {s t : State} (h : Leads q s q' t) (hq' : q' = []) (hq : q ≠ [])
    (hp : writesPlaced q = true) (hs : startsWithEvent q = true) : ∃ es, es ≠ [] ∧ t.trace = s.trace ++ es := by
  induction h with
  | refl q s => exact absurd hq' hq
  | step m q q' s t hrest ih =>
    by_cases hb : ∃ w, m = .before w
    · obtain ⟨w, rfl⟩ := hb
      obtain ⟨hne, hstart, hplaced⟩ := (writesPlaced_before w q).1 hp
      simpa only [Micro.run, (w.apply_keeps s).2] using ih hq' hne hplaced hstart
    · have ha : ∀ w, m ≠ .after w := fun w hw => by simp [hw, startsWithEvent] at hs
      obtain ⟨ev, hev⟩ := m.run_event q s (not_exists.1 hb) ha
      obtain ⟨es, hes⟩ := hrest.trace_grows
      exact ⟨ev :: es, List.cons_ne_nil ev es, by simp [← hes, hev]⟩

/-- Every expansion issues at least one pin event. -/
theorem expansion_trace (i : Instr) (s : State) : ∃ es, es ≠ [] ∧ (expansion i s).trace = s.trace ++ es := by
  obtain ⟨hne, hstart⟩ := microOps_startsWithEvent s.params i
  exact (leads_microOps i s).trace_of_startsWithEvent rfl hne (writesPlaced_microOps s.params i) hstart

/-- Settles O20: the word is decoded, then its command goes through `execute`, of which each clause is one branch. -/
theorem acceptanceChecksInOrder : Obligations.AcceptanceChecksInOrder := by
  intro s w rest hp s'
  have hstep : step s = hostStep (.command w) s' := by rw [step_cons s _ rest hp, hostMove_writeCmd]
  refine ⟨fun why hw => hstep.trans (hostStep_illegal hw s'), fun c hw => ?_⟩
  have hexec : step s = exec c s' := hstep.trans (hostStep_command hw s')
  have hwf : c.WellFormed := (encodeOfDecode w c hw).1
  refine ⟨?reinit, ?noInit, ?rdOut, fun hinit hdir => ?runs⟩
  case reinit =>
    rintro rfl hs
    exact hexec.trans ((exec_eq .init s').trans (execute_reinit s' _ hs))
  case noInit => exact fun hc hs => hexec.trans (exec_noInit c s' hwf hc hs)
  case rdOut =>
    rintro rfl hs hd
    exact hexec.trans ((exec_eq .rdSda s').trans (execute_rdOut s' _ hs hd))
  case runs =>
    obtain ⟨es, hne, htrace⟩ := expansion_trace c s'
    exact ⟨_, es, hexec.trans (exec_accepted c s' hwf hinit hdir), hne, htrace, expansion_keepsAllBut c s'⟩

/-! ### The sticky bits (R113; 10_state.md R27, R30, R31) -/

/-- Each sticky bit that is set in `s` is set in `t`: the four fault bits, PROTO_VIOL and INIT_DONE. -/
def KeepsSticky (s t : State) : Prop :=
  (s.fIllegal = true → t.fIllegal = true) ∧ (s.fRdOut = true → t.fRdOut = true) ∧ (s.fNoInit = true → t.fNoInit = true)
  ∧ (s.fReinit = true → t.fReinit = true) ∧ (s.protoViol = true → t.protoViol = true) ∧ (s.initDone = true → t.initDone = true)

theorem KeepsSticky.refl (s : State) : KeepsSticky s s := ⟨id, id, id, id, id, id⟩

theorem KeepsSticky.trans {s t u : State} (h : KeepsSticky s t) (h' : KeepsSticky t u) : KeepsSticky s u := by
  obtain ⟨hill, hrd, hno, hre, hviol, hinit⟩ := h
  obtain ⟨hill', hrd', hno', hre', hviol', hinit'⟩ := h'
  exact ⟨hill' ∘ hill, hrd' ∘ hrd, hno' ∘ hno, hre' ∘ hre, hviol' ∘ hviol, hinit' ∘ hinit⟩

/-- A primitive's check only ever sets PROTO_VIOL (10_state.md R27). -/
theorem checkProto_keepsSticky (p : Prim) (s : State) : KeepsSticky s (s.checkProto p) :=
  ⟨id, id, id, id, fun h => by simp [State.checkProto, h], id⟩

theorem Write.apply_keepsSticky (w : Write) (s : State) : KeepsSticky s (w.apply s) := by
  cases w with
  | initDone => exact ⟨id, id, id, id, id, fun _ => rfl⟩
  | checkProto p => exact checkProto_keepsSticky p s
  | _ => exact .refl s

theorem Micro.run_keepsSticky (m : Micro) (q : List Micro) (s : State) : KeepsSticky s (m.run q s).2 := by
  cases m with
  | before w | after w => exact w.apply_keepsSticky s
  | cfgSda out => cases out <;> exact .refl s
  | sendFrom idx =>
    obtain ⟨k, hk⟩ := memRead_state idx s
    simp only [Micro.run, hk]
    exact checkProto_keepsSticky .sendByte s
  | _ => exact .refl s

/-- A refusal sets one bit and clears none (R112). -/
theorem raiseFault_keepsSticky (f : FaultCode) (s : State) : KeepsSticky s (s.raiseFault f) := by
  cases f with
  | illegal => exact ⟨fun _ => rfl, id, id, id, id, id⟩
  | rdOut => exact ⟨id, fun _ => rfl, id, id, id, id⟩
  | noInit => exact ⟨id, id, fun _ => rfl, id, id, id⟩
  | reinit => exact ⟨id, id, id, fun _ => rfl, id, id⟩

/-- Every command: it is refused, or it runs its micro-operations. -/
theorem exec_keepsSticky (i : Instr) (s t : State) (h : exec i s = .next t) : KeepsSticky s t := by
  rcases exec_cases i s t h with ⟨f, -, rfl⟩ | ⟨-, -, -, rfl⟩
  · exact raiseFault_keepsSticky f s
  · exact (leads_microOps i s).relates .refl (fun _ _ _ => .trans) (fun m q s => m.run_keepsSticky q s)

theorem hostStep_keepsSticky (m : HostMove) (s t : State) (h : hostStep m s = .next t) : KeepsSticky s t := by
  by_cases hm : ∀ w, m ≠ .command w
  · obtain ⟨b, k, r, rfl⟩ := hostStep_plain m s t hm h
    exact .refl s
  · obtain ⟨w, rfl⟩ := not_forall_not.1 hm
    cases hw : decode w with
    | command c => exact exec_keepsSticky c s t (hostStep_command hw s ▸ h)
    | illegal why =>
      rw [hostStep_illegal hw, Host.Outcome.next.injEq] at h
      exact h ▸ raiseFault_keepsSticky .illegal s

/-- Settles O46: a step waits, or it takes up an access, which touches no sticky bit, and does the move it is. -/
theorem stickyBitsStay : Obligations.StickyBitsStay := by
  intro s t h
  rcases step_cases s t h with ⟨-, rfl⟩ | ⟨a, rest, m, -, -, ht⟩
  · exact KeepsSticky.refl t
  · exact hostStep_keepsSticky m { s with pending := rest } t ht

/-! ### An engine keeps its pins (10_state.md R17) -/

theorem Engine.accept_params (c : Instr) (s : State) : (Engine.accept c s).state.params = s.params := by
  cases ha : acceptance c s with
  | some f => simp [Engine.accept, ha]
  | none =>
    simp only [Engine.accept, ha]
    exact (nextEvent_keeps _ s).params

theorem Engine.serve_params (m : HostMove) (s : State) (f : Engine) (h : Engine.serve m s = .next f) :
    f.state.params = s.params := by
  by_cases hm : ∀ w, m ≠ .command w
  · obtain ⟨t, ht⟩ := hostStep_next m s
    obtain ⟨b, k, r, rfl⟩ := hostStep_plain m s t hm ht
    obtain rfl := Host.Outcome.next.inj ((Engine.serve_plain m s _ hm ht).1.symm.trans h)
    rfl
  · obtain ⟨w, rfl⟩ := not_forall_not.1 hm
    simp only [Engine.serve] at h
    cases hw : decode w with
    | command c =>
      simp only [hw, Host.Outcome.next.injEq] at h
      exact h ▸ Engine.accept_params c s
    | illegal why =>
      simp only [hw, Host.Outcome.next.injEq] at h
      exact h ▸ s.raiseFault_params .illegal

/-- No step of an engine, be it an event or a host access, changes a parameter (10_state.md R17). -/
theorem Engine.step_params (e f : Engine) (h : e.step = .next f) : f.state.params = e.state.params := by
  obtain ⟨s, todo⟩ := e
  by_cases htodo : todo = []
  · subst htodo
    cases hp : s.pending with
    | nil =>
      rw [Engine.step_idle_nil s hp, Host.Outcome.next.injEq] at h
      rw [← h]
    | cons a rest =>
      rw [Engine.step_idle_cons s a rest hp] at h
      cases hm : hostMove a with
      | none => simp [hm] at h
      | some m => exact Engine.serve_params m { s with pending := rest } f (by simpa [hm] using h)
  · rw [Engine.step_running _ htodo, Host.Outcome.next.injEq] at h
    exact h ▸ (nextEvent_keeps todo s).params

theorem Engine.step_boundPins (e f : Engine) (h : e.step = .next f) : f.boundPins = e.boundPins := by
  simp only [Engine.boundPins, State.boundPins, Engine.step_params e f h]

/-! ### The step of a platform (R122) -/

/-- Everything a step among the instances can do: the first of them is the one named and steps, or the step is among the rest. -/
theorem stepBus_cons_iff (id : List PinId) (e : Engine) (es fs : List Engine) : stepBus id (e :: es) = .next fs ↔
    (e.boundPins = id ∧ ∃ f, e.step = .next f ∧ fs = f :: es)
    ∨ (e.boundPins ≠ id ∧ ∃ es', stepBus id es = .next es' ∧ fs = e :: es') := by
  by_cases hid : e.boundPins = id
  · cases hstep : e.step <;> simp [stepBus, hid, hstep, eq_comm]
  · cases hrest : stepBus id es <;> simp [stepBus, hid, hrest, eq_comm]

/-- After a step among the instances each is bound to the pins it was bound to. -/
theorem stepBus_boundPins {id : List PinId} {es fs : List Engine} (h : stepBus id es = .next fs) :
    fs.map Engine.boundPins = es.map Engine.boundPins := by
  induction es generalizing fs with
  | nil => cases h
  | cons e es ih =>
    rcases (stepBus_cons_iff id e es fs).1 h with ⟨-, f, hf, rfl⟩ | ⟨-, es', hes', rfl⟩
    · simp [Engine.step_boundPins e f hf]
    · simp [ih hes']

/-- Steps among the instances, of two that are bound to different pins, may be exchanged. -/
theorem stepBus_commute {id id' : List PinId} (hid : id ≠ id') {es fs gs : List Engine} (h : stepBus id es = .next fs)
    (h' : stepBus id' fs = .next gs) : ∃ fs', stepBus id' es = .next fs' ∧ stepBus id fs' = .next gs := by
  induction es generalizing fs gs with
  | nil => cases h
  | cons e es ih =>
    rcases (stepBus_cons_iff id e es fs).1 h with ⟨he, f, hf, rfl⟩ | ⟨he, es', hes', rfl⟩
    · -- the first engine takes the first step, so the second step is among the others
      have hpins := Engine.step_boundPins e f hf
      rcases (stepBus_cons_iff id' f es gs).1 h' with ⟨hf', -⟩ | ⟨hf', es'', hes'', rfl⟩
      · exact absurd (he.symm.trans (hpins.symm.trans hf')) hid
      · exact ⟨e :: es'', (stepBus_cons_iff ..).2 (.inr ⟨hpins ▸ hf', es'', hes'', rfl⟩),
          (stepBus_cons_iff ..).2 (.inl ⟨he, f, hf, rfl⟩)⟩
    · rcases (stepBus_cons_iff id' e es' gs).1 h' with ⟨he', f, hf, rfl⟩ | ⟨he', es'', hes'', rfl⟩
      · -- the first engine takes the second step
        exact ⟨f :: es, (stepBus_cons_iff ..).2 (.inl ⟨he', f, hf, rfl⟩),
          (stepBus_cons_iff ..).2 (.inr ⟨Engine.step_boundPins e f hf ▸ he, es', hes', rfl⟩)⟩
      · -- both steps are among the others
        obtain ⟨fs', hfs', hgs⟩ := ih hes' hes''
        exact ⟨e :: fs', (stepBus_cons_iff ..).2 (.inr ⟨he', fs', hfs', rfl⟩),
          (stepBus_cons_iff ..).2 (.inr ⟨he, es'', hgs, rfl⟩)⟩

/-- Which instances use one of some pins is a matter of the pins they are bound to. -/
theorem all_not_usesOneOf (pins : List PinId) (es : List Engine) : es.all (fun e => !e.usesOneOf pins) =
    (es.map Engine.boundPins).all (fun bound => !bound.any pins.contains) := by
  rw [List.all_map]
  rfl

/-- Whether two instances share a pin is a matter of the pins they are bound to. -/
theorem noSharedPin_congr {es fs : List Engine} (h : fs.map Engine.boundPins = es.map Engine.boundPins) :
    noSharedPin fs = noSharedPin es := by
  induction es generalizing fs with
  | nil => rw [List.map_eq_nil_iff.1 h]
  | cons e es ih =>
    rcases fs with _ | ⟨f, fs⟩
    · cases h
    · obtain ⟨hhead, htail⟩ := List.cons.inj h
      simp only [noSharedPin, all_not_usesOneOf, hhead, htail, ih htail]

/-- Whether a configuration is well formed is a matter of the pins its instances are bound to (10_state.md R17). -/
theorem Platform.wf_congr {p q : Platform} (h : q.buses.map Engine.boundPins = p.buses.map Engine.boundPins) : q.wf = p.wf := by
  have hempty := congrArg List.isEmpty h
  rw [List.isEmpty_map, List.isEmpty_map] at hempty
  rw [Platform.wf, Platform.wf, hempty, noSharedPin_congr h]

/-- When the platform's step answers a next state, and which. -/
theorem Platform.step_next_iff (p q : Platform) (scl sda : PinId) :
    p.step scl sda = .next q ↔ p.wf = true ∧ stepBus [scl, sda] p.buses = .next q.buses := by
  obtain ⟨fs⟩ := q
  by_cases hwf : p.wf = true
  · cases hstep : stepBus [scl, sda] p.buses <;> simp [Platform.step, hwf, hstep]
  · simp [Platform.step, hwf]

/-- Settles O58: the two steps are exchanged by `stepBus_commute`, and the platform between them is as well formed as the first,
for no step changes a pin. -/
theorem instancesInterleaveFreely : Obligations.InstancesInterleaveFreely := by
  intro p q r scl sda scl' sda' hne hq hr
  obtain ⟨hwf, hq⟩ := (Platform.step_next_iff ..).1 hq
  obtain ⟨-, hr⟩ := (Platform.step_next_iff ..).1 hr
  obtain ⟨fs, hfs, hgs⟩ := stepBus_commute hne hq hr
  have hwf' : (⟨fs⟩ : Platform).wf = true := (Platform.wf_congr (stepBus_boundPins hfs)).trans hwf
  exact ⟨⟨fs⟩, (Platform.step_next_iff ..).2 ⟨hwf, hfs⟩, (Platform.step_next_iff ..).2 ⟨hwf', hgs⟩⟩

end Sys2Proof.Machine

/-! PROOFS. The statements of 70_reset_and_hazards.md: the state right after INIT (R129), and the command timing of the transactions
(R138). -/

namespace Sys2Proof.Machine

open Sys2Proof.Safety

/-! ### Right after INIT (R129) -/

/-- Settles O19: INIT writes RESULT the value reset gave it, and by its fifth event START has driven both latches, whatever they
held, with SDA in output mode. -/
theorem stateRightAfterInit : Obligations.StateRightAfterInit := by
  intro p
  refine ⟨_, exec_accepted .init (State.powerOn p) rfl (by simp [State.powerOn]) nofun, rfl, rfl, rfl, rfl, fun f hf => ?_, ?_⟩
  · by_cases hresult : f = .result
    · subst hresult
      rfl
    · exact expansion_init_keepsAllBut (State.powerOn p) f (by simp_all)
  · exact PinView.edgesAlong_of_latches rfl rfl rfl rfl rfl

/-! ### The events and Waits between two states (R138) -/

/-- From `s` to `t` that many events are recorded, and that many of them are Waits. -/
def Took (s t : State) (events waits : Nat) : Prop :=
  ∃ es, t.trace = s.trace ++ es ∧ es.length = events ∧ es.countP isWait = waits

/-- The counts of one run after another add up. -/
theorem Took.trans {s t u : State} {n w n' w' : Nat} (h : Took s t n w) (h' : Took t u n' w') :
    Took s u (n + n') (w + w') := by
  obtain ⟨es, ht, rfl, rfl⟩ := h
  obtain ⟨fs, hu, rfl, rfl⟩ := h'
  exact ⟨es ++ fs, by rw [hu, ht, List.append_assoc], List.length_append, List.countP_append⟩

/-- Where the trace is the same, nothing is recorded. -/
theorem Took.silent {s t : State} (h : t.trace = s.trace) : Took s t 0 0 :=
  ⟨[], by rw [h, List.append_nil], rfl, rfl⟩

/-- The same counts, written otherwise. -/
theorem Took.of_eq {s t : State} {n w n' w' : Nat} (h : Took s t n w) (hn : n = n') (hw : w = w') : Took s t n' w' := by
  subst hn hw
  exact h

theorem took_callStart (s : State) : Took s (callStart s) 8 4 := by
  rw [callStart_eq]
  exact ⟨_, rfl, rfl, rfl⟩

theorem took_opened (s : State) : Took s (opened s) 8 4 :=
  took_callStart (s.setIgnNack false)

theorem took_closeTransaction (s : State) : Took s (closeTransaction s) 8 4 := by
  rw [closeTransaction, callStop_eq]
  exact ⟨_, rfl, rfl, rfl⟩

theorem took_callRecvByte (s : State) : Took s (callRecvByte s).2 46 19 := by
  rw [callRecvByte_eq]
  exact ⟨_, rfl, rfl, rfl⟩

theorem took_callSendAck (s : State) : Took s (callSendAck s) 6 3 := by
  rw [callSendAck_eq]
  exact ⟨_, rfl, rfl, rfl⟩

theorem took_callSendNack (s : State) : Took s (callSendNack s) 6 3 := by
  rw [callSendNack_eq]
  exact ⟨_, rfl, rfl, rfl⟩

/-- The data loop of READ_MULTI: each byte and its acknowledge or not-acknowledge, whatever is received. -/
theorem took_recvBuf (n : Nat) (idx : Byte) (s : State) : Took s (recvBuf n idx s) (52 * n) (22 * n) := by
  induction n generalizing idx s with
  | zero => exact .silent rfl
  | succ n ih =>
    have hbyte : Took s ((callRecvByte s).2.memWrite idx (callRecvByte s).1) 46 19 := took_callRecvByte s
    rw [recvBuf]
    refine ((hbyte.trans (n' := 6) (w' := 3) ?_).trans (ih _ _)).of_eq (by omega) (by omega)
    cases n with
    | zero => exact took_callSendNack _
    | succ n => exact took_callSendAck _

section
variable {n : Nat} {rest : List Bit} {s : State}

/-- A byte acknowledged at the first sample. -/
theorem LowNext.took_sendIgnored (h : LowNext (n + 1) rest s) (v : Byte) :
    Took s (Machine.sendIgnored v s) 59 29 ∧ LowNext n rest (Machine.sendIgnored v s) := by
  obtain ⟨hsent, hlow⟩ := h.sendIgnored v
  rw [hsent]
  exact ⟨⟨_, rfl, rfl, rfl⟩, hlow⟩

/-- START and an address acknowledged at the first sample. -/
theorem LowNext.took_acknowledged (h : LowNext (n + 1) rest s) (dev : DevAddr) :
    Took s (Machine.acknowledged dev s) 67 33 := by
  obtain ⟨haddr, -⟩ := h.acknowledged dev
  rw [Machine.acknowledged, haddr]
  exact ⟨_, List.append_assoc _ _ _, rfl, rfl⟩

/-- A read of BUF samples nothing. -/
theorem LowNext.memRead (h : LowNext n rest s) (idx : Byte) : LowNext n rest (s.memRead idx).2 :=
  ⟨by simpa using h.budget, by simpa using h.env⟩

/-- The data loop of WRITE_MULTI, each byte acknowledged at the first sample. -/
theorem LowNext.took_sendBuf (h : LowNext n rest s) (idx : Byte) : Took s (sendBuf n idx s) (59 * n) (29 * n) := by
  induction n generalizing idx s with
  | zero => exact .silent rfl
  | succ n ih =>
    have hread : Took s (s.memRead idx).2 0 0 := .silent (s.memRead_trace idx)
    obtain ⟨hsent, hlow⟩ := (h.memRead idx).took_sendIgnored (s.memRead idx).1
    exact ((hread.trans hsent).trans (ih hlow (idx + 1))).of_eq (by omega) (by omega)

end

/-! ### The transactions (R138) -/

/-- A transaction with a checked address phase (R97): aborted, or run from the acknowledged address on. -/
theorem exec_checkedAddress {i : Instr} {dev : DevAddr} {body : State → State} {s : State} (hw : i.WellFormed) (hi : i ≠ .init)
    (hr : i ≠ .rdSda) (hexp : expansion i = checkedAddress dev body) (hs : s.initDone = true) :
    exec i s = .next (if (addressResult dev s).timedOut then aborted dev s else body (acknowledged dev s)) := by
  rw [exec_run i s hw hi hr hs, hexp, checkedAddress_eq]

/-- The command runs and records that many events, that many of them Waits. -/
def RunsIn (i : Instr) (s : State) (events waits : Nat) : Prop :=
  ∃ t es, exec i s = .next t ∧ t.trace = s.trace ++ es ∧ es.length = events ∧ es.countP isWait = waits

theorem RunsIn.of_took {i : Instr} {s t : State} {n w : Nat} (ht : exec i s = .next t) (h : Took s t n w) : RunsIn i s n w := by
  obtain ⟨es, hes⟩ := h
  exact ⟨t, es, ht, hes⟩

/-- A transaction whose address is acknowledged at the first sample: what comes after it adds its events and Waits. -/
theorem LowNext.runsIn {i : Instr} {dev : DevAddr} {body : State → State} {n events waits : Nat} {rest : List Bit} {s : State}
    (h : LowNext (n + 1) rest s) (hs : s.initDone = true) (hw : i.WellFormed) (hi : i ≠ .init) (hr : i ≠ .rdSda)
    (hexp : expansion i = checkedAddress dev body)
    (hbody : ∀ u, LowNext n rest u → Took u (body u) events waits) : RunsIn i s (67 + events) (33 + waits) := by
  obtain ⟨haddr, hlow⟩ := h.acknowledged dev
  refine .of_took (exec_checkedAddress hw hi hr hexp hs) ?_
  rw [haddr, if_neg nofun]
  exact (h.took_acknowledged dev).trans (hbody _ hlow)

section
variable {rest : List Bit} {s : State} (dev : DevAddr) (reg : Byte)

/-- WRITE_ONE: the register byte, the value byte, STOP. -/
theorem LowNext.runsIn_writeOne (h : LowNext 3 rest s) (hs : s.initDone = true) (val : Byte) :
    RunsIn (.writeOne dev reg val) s 193 95 := by
  refine h.runsIn hs rfl nofun nofun rfl (events := 126) (waits := 62) fun u hu => ?_
  obtain ⟨hreg, hu⟩ := hu.took_sendIgnored reg
  obtain ⟨hval, -⟩ := hu.took_sendIgnored val
  exact hreg.trans hval |>.trans (took_closeTransaction _)

/-- WRITE_MULTI: the register byte, the data loop, STOP. -/
theorem LowNext.runsIn_writeMulti {n : Byte} (h : LowNext (2 + n.toNat) rest s) (hs : s.initDone = true) :
    RunsIn (.writeMulti dev reg n) s (134 + 59 * n.toNat) (66 + 29 * n.toNat) := by
  rw [show 2 + n.toNat = n.toNat + 1 + 1 by omega] at h
  rw [show 134 + 59 * n.toNat = 67 + (59 + 59 * n.toNat + 8) by omega,
    show 66 + 29 * n.toNat = 33 + (29 + 29 * n.toNat + 4) by omega]
  refine h.runsIn hs rfl nofun nofun rfl fun u hu => ?_
  obtain ⟨hreg, hu⟩ := hu.took_sendIgnored reg
  exact hreg.trans (hu.took_sendBuf 0) |>.trans (took_closeTransaction _)

/-- READ_ONE: two bytes, the repeated START, the address byte for reading, the byte received, SEND_NACK, STOP. -/
theorem LowNext.runsIn_readOne (h : LowNext 3 rest s) (hs : s.initDone = true) : RunsIn (.readOne dev reg) s 253 121 := by
  refine .of_took (exec_run (.readOne dev reg) s rfl nofun nofun hs) ?_
  rw [expansion_readOne]
  have hopened : LowNext 3 rest (opened s) := LowNext.callStart ⟨h.budget, h.env⟩
  obtain ⟨haddr, hlow⟩ := hopened.took_sendIgnored (addrByte dev false)
  obtain ⟨hreg, hlow⟩ := hlow.took_sendIgnored reg
  obtain ⟨hread, -⟩ := hlow.callStart.took_sendIgnored (addrByte dev true)
  exact (took_opened s).trans haddr |>.trans hreg |>.trans (took_callStart _) |>.trans hread
    |>.trans (took_callRecvByte _) |>.trans (took_callSendNack _) |>.trans (took_closeTransaction _)

/-- READ_MULTI: the register byte, the repeated START, the address byte for reading, the data loop, STOP. -/
theorem LowNext.runsIn_readMulti {n : Byte} (h : LowNext 3 rest s) (hs : s.initDone = true)
    (hw : (Instr.readMulti dev reg n).WellFormed) :
    RunsIn (.readMulti dev reg n) s (201 + 52 * n.toNat) (99 + 22 * n.toNat) := by
  rw [show 201 + 52 * n.toNat = 67 + (126 + 52 * n.toNat + 8) by omega,
    show 99 + 22 * n.toNat = 33 + (62 + 22 * n.toNat + 4) by omega]
  refine h.runsIn hs hw nofun nofun rfl fun u hu => ?_
  obtain ⟨hreg, hu⟩ := hu.took_sendIgnored reg
  obtain ⟨hread, -⟩ := hu.callStart.took_sendIgnored (addrByte dev true)
  exact hreg.trans (took_callStart _) |>.trans hread |>.trans (took_recvBuf n.toNat 0 _) |>.trans (took_closeTransaction _)

end

/-- With every answer of the budget high, the address phase times out (R97). -/
theorem addressResult_timeout {s : State} {rest : List Bit} (dev : DevAddr)
    (henv : s.env = List.replicate s.params.ackPollBudget true ++ rest) : addressResult dev s = .timeout := by
  refine ackResult_timeout (rest := rest) ?_
  rw [callSendByte_eq, opened_eq]
  exact henv

/-- An aborted transaction, with the budget of 5 and its own Stop. -/
theorem took_aborted {s : State} (dev : DevAddr) (hb : s.params.ackPollBudget = 5) (hstop : s.params.abortStop2 = true) :
    Took s (aborted dev s) 90 45 := by
  refine ⟨abortedEvents s.params dev, rfl, ?_⟩
  rw [abortedEvents, hb, hstop]
  exact ⟨rfl, rfl⟩

/-- Settles O40: the counts of each transaction's calls add up, and an address phase without an acknowledge is the abort's. -/
theorem transactionTimings : Obligations.TransactionTimings := by
  intro dev reg val s rest hs hb hstop
  have hbudget : 1 ≤ s.params.ackPollBudget := by omega
  refine ⟨fun henv => ?_, fun henv => LowNext.runsIn_writeMulti dev reg ⟨hbudget, henv⟩ hs, fun henv c hc hw => ?_⟩
  · have hlow : LowNext 3 rest s := ⟨hbudget, henv⟩
    exact ⟨hlow.runsIn_writeOne dev reg hs val, hlow.runsIn_readOne dev reg hs,
      fun hval => hlow.runsIn_readMulti dev reg hs (bne_iff_ne.2 hval)⟩
  · have haddr : addressResult dev s = .timeout := addressResult_timeout dev (by rw [hb, henv])
    have hchecked : ∃ body, expansion c = checkedAddress dev body ∧ c ≠ .init ∧ c ≠ .rdSda := by
      simp only [List.mem_cons, List.not_mem_nil, or_false] at hc
      obtain rfl | rfl | rfl := hc <;> exact ⟨_, rfl, nofun, nofun⟩
    obtain ⟨body, hexp, hi, hr⟩ := hchecked
    obtain ⟨es, htrace, hlen, hwaits⟩ := took_aborted dev hb hstop
    have hexec := exec_checkedAddress hw hi hr hexp hs
    rw [haddr, AckResult.timedOut, if_pos rfl] at hexec
    exact ⟨_, es, hexec, htrace, hlen, hwaits, rfl⟩

end Sys2Proof.Machine

/-! PROOFS. The accesses of the host port (20_memory.md R42 to R46), the read of RXDATA (10_state.md R38), the waiting step
(60_exceptions.md R124), and instances that share no pin and no state (10_state.md R17, 60_exceptions.md R122). -/

namespace Sys2Proof.Machine

open Sys2Proof.Safety

/-! ### Which accesses are served (20_memory.md R45, R46) -/

/-- Settles O11: with no access to take up, the host port answers the state itself. -/
theorem waitingStepKeepsEverything : Obligations.WaitingStepKeepsEverything := step_nil

/-- A byte read in the upper half of the window is the move that reads BUF there (R39). -/
theorem hostMove_readBuf (i : Byte) : hostMove (.read .byte (BitVec.ofNat 9 (0x100 + i.toNat))) = some (.readBuf i) := by
  obtain ⟨hmsb, hindex⟩ := bufOffset_fields i
  simp only [hostMove, hmsb, if_true, hindex]

/-- A byte write in the upper half of the window is the move that writes BUF there, with bits 7:0 of the access (R39; log 4). -/
theorem hostMove_writeBuf (i : Byte) (v : Word) :
    hostMove (.write .byte (BitVec.ofNat 9 (0x100 + i.toNat)) v) = some (.writeBuf i (v.setWidth 8)) := by
  obtain ⟨hmsb, hindex⟩ := bufOffset_fields i
  simp only [hostMove, hmsb, if_true, hindex]

/-- A word read of RXDATA is the move that reads it. -/
theorem hostMove_readRxData : hostMove (.read .word 0x008) = some .readRxData := rfl

/-- An offset in the upper half of the window is that of the byte its low eight bits number (R39). -/
theorem offset_eq_of_msb {off : Offset} (h : off.msb = true) : off = BitVec.ofNat 9 (0x100 + (off.setWidth 8).toNat) := by
  have hhigh : 256 ≤ off.toNat := by simpa [BitVec.msb_eq_decide] using h
  have hlt := off.isLt
  apply BitVec.eq_of_toNat_eq
  rw [BitVec.toNat_ofNat, BitVec.toNat_setWidth]
  omega

/-- An access is a host move just where R45 lists it. -/
theorem hostMove_isSome_iff_listed (a : HostAccess) : (hostMove a).isSome = true ↔ Listed a := by
  constructor
  · intro h
    fun_cases hostMove a
    -- a word write to CMD, then one to STATUS or RXDATA
    case case1 v => exact .inl ⟨v, rfl⟩
    case case2 v _ hoff =>
      rcases hoff with rfl | rfl
      · exact .inr (.inr (.inr (.inr (.inr (.inl ⟨v, rfl⟩)))))
      · exact .inr (.inr (.inr (.inr (.inr (.inr ⟨v, rfl⟩)))))
    -- a word read of STATUS, then one of RXDATA
    case case4 => exact .inr (.inl rfl)
    case case5 => exact .inr (.inr (.inl rfl))
    -- a byte write of BUF, then a byte read of it
    case case7 off v hmsb =>
      rw [offset_eq_of_msb hmsb]
      exact .inr (.inr (.inr (.inr (.inl ⟨_, v, rfl⟩))))
    case case9 off hmsb =>
      rw [offset_eq_of_msb hmsb]
      exact .inr (.inr (.inr (.inl ⟨_, rfl⟩)))
    -- every other branch answers no move
    all_goals simp_all [hostMove]
  · rintro (⟨w, rfl⟩ | rfl | rfl | ⟨i, rfl⟩ | ⟨i, v, rfl⟩ | ⟨v, rfl⟩ | ⟨v, rfl⟩)
    · rfl
    · rfl
    · rfl
    · rw [hostMove_readBuf, Option.isSome_some]
    · rw [hostMove_writeBuf, Option.isSome_some]
    · rfl
    · rfl

/-- The next access is refused just where it is no host move: every move answers a next state. -/
theorem step_refuses_iff {s : State} {a : HostAccess} {rest : List HostAccess} (h : s.pending = a :: rest) :
    step s = .refused .noSuchHostAccess ↔ hostMove a = none := by
  rw [step_cons s a rest h]
  cases hm : hostMove a with
  | none => simp
  | some m =>
    obtain ⟨t, ht⟩ := hostStep_next m { s with pending := rest }
    simp [ht]

/-- Settles O12: an access is refused where it is no host move, and it is one where R45 lists it. -/
theorem onlyListedAccessesAreServed : Obligations.OnlyListedAccessesAreServed := by
  intro s a rest hp
  rw [step_refuses_iff hp, ← hostMove_isSome_iff_listed, Option.not_isSome_iff_eq_none]

/-! ### What an access does (20_memory.md R42, R43, R45; 10_state.md R38) -/

/-- Settles O13: the access is the write of BUF[i], which puts the byte in its cell and keeps every other cell. -/
theorem hostWriteSetsOneBufByte : Obligations.HostWriteSetsOneBufByte := by
  intro s i v rest hp
  have hstep : step s = .next (({ s with pending := rest } : State).memWrite i (v.setWidth 8)) := by
    rw [step_cons s _ rest hp, hostMove_writeBuf]
    rfl
  refine ⟨_, hstep, rfl, bufGet_bufSet_same .., fun j hj => bufGet_bufSet_other _ _ _ _ hj, fun f hf => ?_⟩
  cases f <;> simp [FieldName.same] at hf ⊢

/-- `v` is what a read of the byte field gives, and `k` the draw counter after it: the value of the field, or, where it is
UNSPEC, the next draw (00_scope.md R11). -/
def ByteReadsAs (s : State) (h : Held Byte) (v : Byte) (k : Nat) : Prop :=
  (∀ u, h = .val u → v = u ∧ k = s.draws) ∧ (h = .unspec → v = s.byteDraw s.draws ∧ k = s.draws + 1)

/-- A read of a byte field gives its value or the next draw, and changes only the draw counter. -/
theorem readByte_eq (h : Held Byte) (s : State) : ∃ v k, ByteReadsAs s h v k ∧ s.readByte h = (v, { s with draws := k }) := by
  cases h with
  | val u => exact ⟨u, s.draws, ⟨fun u' hu => ⟨Held.val.inj hu, rfl⟩, nofun⟩, rfl⟩
  | unspec => exact ⟨_, _, ⟨nofun, fun _ => ⟨rfl, rfl⟩⟩, rfl⟩

/-- A reply to an access taken up, with draws taken for it, changes what the host port holds and the draw counter. -/
theorem reply_keepsAllBut (s : State) (rest : List HostAccess) (k : Nat) (r : HostReply) :
    KeepsAllBut [.pending, .replies, .draws] s (State.reply r { s with pending := rest, draws := k }) := by
  intro f hf
  cases f <;> simp [FieldName.same] at hf ⊢

/-- Settles O14: the access is the read of BUF[i], which gives the byte or a draw. -/
theorem hostReadReturnsBufByte : Obligations.HostReadReturnsBufByte := by
  intro s i rest hp
  obtain ⟨v, k, ⟨hval, hdraw⟩, hread⟩ := readByte_eq (bufGet s.buf i.toNat) { s with pending := rest }
  have hstep : step s = .next (State.reply (.byte v) { s with pending := rest, draws := k }) := by
    rw [step_cons s _ rest hp, hostMove_readBuf]
    simp only [hostStep, State.memRead, hread]
  exact ⟨_, v, hstep, rfl, rfl, hval, hdraw, reply_keepsAllBut s rest k (.byte v)⟩

/-- Settles O16: the access is the read of RXDATA, which extends the byte or a draw with zeros, or it is a write that is
ignored. -/
theorem rxDataReadAndIgnoredWrites : Obligations.RxDataReadAndIgnoredWrites := by
  constructor
  · intro s rest hp
    obtain ⟨v, k, ⟨hval, hdraw⟩, hread⟩ := readByte_eq s.rxData { s with pending := rest }
    have hstep : step s = .next (State.reply (.word (v.setWidth 32)) { s with pending := rest, draws := k }) := by
      rw [step_cons s _ rest hp, hostMove_readRxData]
      simp only [hostStep, State.readRxData, hread]
    rw [← BitVec.ofNat_toNat] at hstep
    exact ⟨_, v, hstep, rfl, rfl, hval, hdraw, reply_keepsAllBut s rest k _⟩
  · rintro s v off rest (rfl | rfl) hp
    all_goals
      rw [step_cons s _ rest hp]
      rfl

/-! ### Instances share no pin (10_state.md R17) and no state (60_exceptions.md R122) -/

/-- Two engines have no pin in common. -/
def SharesNoPin (e f : Engine) : Prop := ∀ pin ∈ e.boundPins, pin ∉ f.boundPins

/-- The check of one pair of instances says that they have no pin in common. -/
theorem not_usesOneOf_iff (e f : Engine) : (!f.usesOneOf e.boundPins) = true ↔ SharesNoPin e f := by
  simp only [Engine.usesOneOf, SharesNoPin, Bool.not_eq_true', List.any_eq_false, List.contains_iff_mem]
  exact ⟨fun h pin he hf => h pin hf he, fun h pin hf he => h pin he hf⟩

/-- The check of R17 compares the instances two by two. -/
theorem noSharedPin_iff_pairwise (es : List Engine) : noSharedPin es = true ↔ es.Pairwise SharesNoPin := by
  induction es with
  | nil => simp [noSharedPin]
  | cons e es ih => simp [noSharedPin, ih, List.pairwise_cons, ← not_usesOneOf_iff]

/-- In a well-formed platform no two instances are bound to one pin. -/
theorem Platform.wf_unique_of_mem {p : Platform} (hwf : p.wf = true) {j k : Nat} {e f : Engine} {pin : PinId}
    (hj : p.buses[j]? = some e) (hk : p.buses[k]? = some f) (he : pin ∈ e.boundPins) (hf : pin ∈ f.boundPins) : j = k := by
  rw [Platform.wf, Bool.and_eq_true, noSharedPin_iff_pairwise, List.pairwise_iff_getElem] at hwf
  obtain ⟨hjlt, rfl⟩ := List.getElem?_eq_some_iff.1 hj
  obtain ⟨hklt, rfl⟩ := List.getElem?_eq_some_iff.1 hk
  rcases lt_trichotomy j k with hlt | heq | hgt
  · exact absurd hf (hwf.2 j k hjlt hklt hlt pin he)
  · exact heq
  · exact absurd he (hwf.2 k j hklt hjlt hgt pin hf)

/-- Settles O59: a pin of two instances makes the configuration ill-formed, which is the first thing a step looks at. -/
theorem sharedPinIsRefused : Obligations.SharedPinIsRefused := by
  intro p scl sda j k e f pin hjk hj hk he hf
  have hwf : ¬ p.wf = true := fun hwf => hjk.ne (Platform.wf_unique_of_mem hwf hj hk he hf)
  rw [Platform.step, if_neg hwf]

/-- A step among the instances is the own step of one that is bound to the pins named. -/
theorem stepBus_eq_set {id : List PinId} {es fs : List Engine} (h : stepBus id es = .next fs) :
    ∃ j e f, es[j]? = some e ∧ e.boundPins = id ∧ e.step = .next f ∧ fs = es.set j f := by
  induction es generalizing fs with
  | nil => cases h
  | cons e es ih =>
    rcases (stepBus_cons_iff id e es fs).1 h with ⟨he, f, hf, rfl⟩ | ⟨-, es', hes', rfl⟩
    · exact ⟨0, e, f, rfl, he, hf, rfl⟩
    · obtain ⟨j, e', f, hj, he', hf, rfl⟩ := ih hes'
      exact ⟨j + 1, e', f, hj, he', hf, rfl⟩

/-- Settles O57: the step replaces one engine bound to the pins named, and no other is bound to them. -/
theorem instancesShareNothing : Obligations.InstancesShareNothing := by
  intro p q scl sda h
  obtain ⟨hwf, hstep⟩ := (Platform.step_next_iff ..).1 h
  obtain ⟨j, e, f, hj, he, hf, hq⟩ := stepBus_eq_set hstep
  rw [hq]
  refine ⟨List.length_set, fun k e' hk he' => ?_, fun k e' hk he' => ?_⟩
  · have hjk : j ≠ k := by
      rintro rfl
      exact he' (Option.some.inj (hj.symm.trans hk) ▸ he)
    rw [List.getElem?_set_ne hjk, hk]
  · obtain rfl : j = k := Platform.wf_unique_of_mem hwf hj hk (pin := scl) (by simp [he]) (by simp [he'])
    obtain rfl := Option.some.inj (hj.symm.trans hk)
    exact ⟨f, hf, List.getElem?_set_self (List.getElem?_eq_some_iff.1 hj).1⟩

end Sys2Proof.Machine
